-- ==== Sys2Proof/Word.lean ====
section
/-! DEFINITION. The words of the block: bytes, 16-bit words, operation words (00_scope.md R9, 30_encoding.md R111). -/

namespace Sys2Proof

/-- A `u8` of the spec (R9). -/
abbrev Byte := BitVec 8

/-- A `u16` of the spec (R9): a port number, a DMA or timer register, a scan code. -/
abbrev Word16 := BitVec 16

/-- The 32-bit operation word of R111. -/
abbrev OpWord := BitVec 32

/-- A memory address as the operation word carries it: 20 bits (R82, R111). -/
abbrev Addr := BitVec 20

end Sys2Proof
end

