-- ==== Sys2Proof/Config.lean ====
section
/-! DEFINITION. The configuration of a machine of the block: every parameter `P_*` of 92_eei_decisions.md section 2 as
plain data, the free values the spec leaves open as constants without a body, and the configuration of the machine
that stands in `State.reset`. -/

namespace Sys2Proof

/-- P_WIDE_ACCESS (R154). -/
inductive WideAccess where
  | refuse
  | lowByte
deriving DecidableEq, Repr, Inhabited

/-- The role of a port of the CRTC ranges, P_CRTC_PORT_ROLE (R311). `unrecognised` is the spec's role `none`. -/
inductive PortRole where
  | index
  | data
  | status
  | ignore
  | unrecognised
deriving DecidableEq, Repr, Inhabited

/-- The three write classes of the EGA window outside the chained layout (R347). `oddEven high` is `OddEven b` with
b = 2 if `high`, else 0. -/
inductive WriteClass where
  | single (plane : BitVec 2)
  | oddEven (high : Bool)
  | roundRobin
deriving DecidableEq, Repr, Inhabited

/-- P_EMS_OOB (R436). -/
inductive EmsOob where
  | fault
  | mask
deriving DecidableEq, Repr, Inhabited

/-- How P_PPI_PORTC is supplied (R286, log 19): the PC/XT formula the spec suggests, or any function at all. -/
inductive PortCRule where
  | pcxt
  | free
deriving DecidableEq, Repr, Inhabited

/-- How P_EGA_CHAIN is supplied (R346, log 19): a bit of a graphics-controller register, or any predicate at all. -/
inductive ChainRule where
  | registerBit (reg : Fin 9) (bit : Fin 8)
  | free
deriving DecidableEq, Repr, Inhabited

/-- How P_EGA_WRITE_CLASS is supplied (R347, log 19): not at all (then the write is refused), one class whatever the
sequencer holds, or any function at all. -/
inductive WriteClassRule where
  | absent
  | always (c : WriteClass)
  | free
deriving DecidableEq, Repr, Inhabited

/-- How P_EGA_READ_PLANE is supplied (R350, log 19): the default `gfx[4] mod 4`, or any function at all. -/
inductive ReadPlaneRule where
  | readMapSelect
  | free
deriving DecidableEq, Repr, Inhabited

/-- One entry of P_FDC_GEOM (R392). -/
structure Geometry where
  heads : Nat
  cylinders : Nat
  sectorsPerTrack : Nat
deriving DecidableEq, Repr, Inhabited

/-- The parameters a model takes as arguments (92_eei_decisions.md section 2), as plain data. No operation changes them
(R42). -/
structure Config where
  /-- P_WIDE_ACCESS -/
  wideAccess : WideAccess
  /-- P_HAS_EGA -/
  hasEga : Bool
  /-- P_PPI_SW -/
  ppiSw : Byte
  /-- P_PPI_SWMODE_BIT -/
  ppiSwModeBit : Fin 8
  /-- P_PPI_PORTC -/
  ppiPortC : PortCRule
  /-- P_PPI_CLK_EN_BIT -/
  ppiClkEnBit : Fin 8
  /-- P_PPI_CLK_DIV -/
  ppiClkDiv : Nat
  /-- P_CRTC_PORT_ROLE: places 0 to 11 are ports 0x3B0 to 0x3BB, places 12 to 24 ports 0x3D0 to 0x3DC. -/
  crtcPortRole : Vector PortRole 25
  /-- P_EGA_SCRIPT -/
  egaScript : List Byte
  /-- P_EGA_PLANE_SIZE -/
  egaPlaneSize : Nat
  /-- P_EGA_CHAIN -/
  egaChain : ChainRule
  /-- P_EGA_WRITE_CLASS -/
  egaWriteClass : WriteClassRule
  /-- P_EGA_READ_PLANE -/
  egaReadPlane : ReadPlaneRule
  /-- P_EGA_MODE_BYTE_ADDR -/
  egaModeByteAddr : Nat
  /-- P_FDC_CBREQ -/
  fdcCbReq : Vector Nat 32
  /-- P_FDC_MSR_IDLE -/
  fdcMsrIdle : Byte
  /-- P_FDC_MSR_RESULT -/
  fdcMsrResult : Byte
  /-- P_FDC_ST_SEEK_END -/
  fdcStSeekEnd : Byte
  /-- P_FDC_ST_TRACK0 -/
  fdcStTrack0 : Byte
  /-- P_FDC_RESET_RESULT -/
  fdcResetResult : Byte
  /-- P_FDC_GEOM -/
  fdcGeom : Vector Geometry 4
  /-- P_FDC_PRESENT -/
  fdcPresent : Vector Bool 4
  /-- P_EMS_BASE -/
  emsBase : Nat
  /-- P_EMS_OOB -/
  emsOob : EmsOob
deriving DecidableEq, Repr

namespace Config

/-! ### Free values: constants without a body -/

/-- `draw(u8)` (R11, U1 to U9): the value of the n-th draw. Free value, log 4. -/
opaque draw : Nat → Byte

/-- `HostMem(address)` at the n-th draw (R349, U10): what the system-memory byte then holds. Free value, log 5. -/
opaque hostMem : Nat → Nat → Byte

/-- Any P_PPI_PORTC (portB, switches, clock bit), where the configuration says `PortCRule.free` (R286, log 19). -/
opaque freePortC : Byte → Byte → Bool → Byte

/-- Any P_EGA_CHAIN, where the configuration says `ChainRule.free` (R346, log 19). -/
opaque freeChain : Vector Byte 9 → Bool

/-- Any P_EGA_WRITE_CLASS, where the configuration says `WriteClassRule.free` (R347, log 14, log 19). -/
opaque freeWriteClass : Vector Byte 6 → WriteClass

/-- Any P_EGA_READ_PLANE, where the configuration says `ReadPlaneRule.free` (R350, log 19). -/
opaque freeReadPlane : Vector Byte 9 → BitVec 2

/-- P_PPI_SW of the reset machine: OPEN, no default (R283, log 10). -/
opaque openPpiSw : Byte

/-- P_PPI_CLK_DIV of the reset machine, less 1: OPEN, no default, at least 1 (R286, log 12). -/
opaque openClkDivLessOne : Nat

/-- P_FDC_ST_TRACK0 of the reset machine, before the bit of seek-end is taken out: OPEN, no default (R390, log 16). -/
opaque openTrack0 : Byte

/-- P_FDC_GEOM of the reset machine, its cylinder counts less 1: OPEN, no default (R392, log 17). -/
opaque openGeometry : Fin 4 → Geometry

/-! ### The spec's defaults -/

/-- The default of P_CRTC_PORT_ROLE, the table of R311. -/
def defaultPortRole : Vector PortRole 25 :=
  #v[.unrecognised, .unrecognised, .unrecognised, .unrecognised, .index, .data,
     .unrecognised, .unrecognised, .unrecognised, .unrecognised, .status, .unrecognised,
     .unrecognised, .unrecognised, .unrecognised, .unrecognised, .index, .data,
     .unrecognised, .unrecognised, .unrecognised, .unrecognised, .status, .unrecognised, .unrecognised]

/-- The default of P_FDC_CBREQ, the table of R130 and R387: place i is the length of opcode i, opcode byte included. -/
def defaultCbReq : Vector Nat 32 :=
  #v[1, 1, 9, 3, 2, 9, 9, 2, 1, 9, 2, 1, 9, 6, 1, 3,
     1, 9, 1, 1, 1, 1, 1, 1, 1, 9, 1, 1, 1, 9, 1, 1]

/-- One drive's geometry in the reset machine: free, with at least one cylinder (log 17). -/
def openGeom (d : Fin 4) : Geometry :=
  { openGeometry d with cylinders := (openGeometry d).cylinders + 1 }

/-- The configuration of the machine in `State.reset`. Where the spec gives a parameter a default it stands here; where
it gives none, the value is free or named in the log: logs 7 to 18. -/
def machine : Config where
  wideAccess := .refuse
  hasEga := true
  ppiSw := openPpiSw
  ppiSwModeBit := 7
  ppiPortC := .pcxt
  ppiClkEnBit := 0
  ppiClkDiv := openClkDivLessOne + 1
  crtcPortRole := defaultPortRole
  egaScript := []
  egaPlaneSize := 65536
  egaChain := .registerBit 6 1
  egaWriteClass := .free
  egaReadPlane := .readMapSelect
  egaModeByteAddr := 0x449
  fdcCbReq := defaultCbReq
  fdcMsrIdle := 0x80
  fdcMsrResult := 0x50
  fdcStSeekEnd := 0x20
  fdcStTrack0 := openTrack0 &&& ~~~0x20#8
  fdcResetResult := 0xC0
  fdcGeom := #v[openGeom 0, openGeom 1, openGeom 2, openGeom 3]
  fdcPresent := #v[true, true, true, true]
  emsBase := 0xD0000
  emsOob := .fault

/-- The constraints 92_eei_decisions.md section 2 puts on the parameters, the lengths the source itself fixes (R387) and
the premise that the two regions are disjoint (R158). -/
def wf (c : Config) : Bool :=
  decide (1 ≤ c.ppiClkDiv)
  && decide (1 ≤ c.egaPlaneSize)
  && c.fdcCbReq.toList.all (fun n => decide (1 ≤ n) && decide (n ≤ 9))
  && decide (c.fdcCbReq[0x07] = 2) && decide (c.fdcCbReq[0x08] = 1) && decide (c.fdcCbReq[0x0F] = 3)
  && decide (c.fdcMsrResult ≠ 0) && decide (c.fdcMsrIdle &&& c.fdcMsrResult = 0)
  && decide (c.fdcStSeekEnd &&& c.fdcStTrack0 = 0)
  && c.fdcGeom.toList.all (fun g => decide (1 ≤ g.cylinders))
  && (!c.hasEga || decide (c.emsBase + 0x10000 ≤ 0xA0000) || decide (0xB0000 ≤ c.emsBase))

end Config

end Sys2Proof
end

