-- ==== Sys2Proof/Syntax.lean ====
section
/-! DEFINITION. The operations of the block, one constructor per mnemonic of spec/opcode_table.json (R112, R113, R130),
and the two formats in which an operation arrives (R110, R111, R140, R144). -/

namespace Sys2Proof

/-- The direction of a port access and, for an OUT, its value (R110): the operand of the two mnemonics that stand for
both directions, CRTC_BADPORT and FDC_OTHER. -/
inductive PortAccess where
  | read
  | write (v : Byte)
deriving DecidableEq, Repr

/-- The operations of R112 and R113 and the floppy commands of R130. `p` is a port, `v` the value of an OUT, `ch` a DMA
channel, `k` a timer counter, `sub` an EMS sub-window, `a` an address, `off` an offset in the EGA window, `opt` bits 7:5
of a floppy opcode byte and `ps` a floppy command's parameter bytes. -/
inductive Instr where
  -- 42_dma_8237.md
  | dmaWrAddr (ch : BitVec 2) (v : Byte)
  | dmaWrCnt (ch : BitVec 2) (v : Byte)
  | dmaRdAddr (ch : BitVec 2)
  | dmaRdCnt (ch : BitVec 2)
  | dmaRdstat
  | dmaWr08 (v : Byte)
  -- 41_pic_8259.md, ports
  | picIcw0 (v : Byte)
  | picEoi (v : Byte)
  | picRdsel (v : Byte)
  | picOcwNop (v : Byte)
  | picRdstat
  | picIcwn (v : Byte)
  | picSetmask (v : Byte)
  | picSetmask0
  | picRdmask
  -- 43_pit_8253.md, ports
  | pitWr (k : Fin 3) (v : Byte)
  | pitRd (k : Fin 3)
  | pitProg (v : Byte)
  | pitLatch (v : Byte)
  | pitSel3 (v : Byte)
  | pitRdctl
  -- 44_ppi_8255.md, ports
  | ppiRda
  | ppiRdb
  | ppiRdc
  | ppiRdctl
  | ppiWra (v : Byte)
  | ppiWrb (v : Byte)
  | ppiWrc (v : Byte)
  | ppiWrctl (v : Byte)
  -- 48_ems.md, ports
  | emsWrsel (sub : BitVec 2) (v : Byte)
  | emsRdsel (sub : BitVec 2)
  -- 45_crtc_6845.md, ports
  | crtcWridx (p : Word16) (v : Byte)
  | crtcWrdata (p : Word16) (v : Byte)
  | crtcRddata (p : Word16)
  | crtcRdidx (p : Word16)
  | crtcRdstat (p : Word16)
  | crtcWrstat (p : Word16) (v : Byte)
  | crtcBadport (p : Word16) (acc : PortAccess)
  -- 46_ega.md, ports
  | egaWridx (p : Word16) (v : Byte)
  | egaWrdata (p : Word16) (v : Byte)
  | egaRddata (p : Word16)
  | egaRdstat (p : Word16)
  | egaWrseqidx (v : Byte)
  | egaWrseq (v : Byte)
  | egaRdseq
  | egaWrgfxidx (v : Byte)
  | egaWrgfx (v : Byte)
  | egaRdgfx
  | egaWr3c2 (v : Byte)
  | egaRd3c2
  | egaRdidx (p : Word16)
  -- 47_fdc_8272.md, ports
  | fdcWrdor (v : Byte)
  | fdcRddor
  | fdcRdmsr
  | fdcWrdata (v : Byte)
  | fdcRddata
  | fdcWrccr (v : Byte)
  | fdcRdccr
  | fdcOther (p : Word16) (acc : PortAccess)
  -- memory regions
  | emsMemr (a : Addr)
  | emsMemw (a : Addr) (v : Byte)
  | egaMemr (off : Word16)
  | egaMemw (off : Word16) (v : Byte)
  -- calls
  | picCallirq (line : Word16)
  | picClearirq (line : Word16)
  | picHasint
  | picNextint
  | pitTick
  | ppiKeytyped (code : Word16)
  | crtcGetreg (i : Word16)
  | fdcInit
  | egaReset
  -- delayed events
  | evMaskapply
  | evKbdreset
  -- floppy commands, R130
  | fdcReadTrack (opt : BitVec 3) (ps : List Byte)
  | fdcSpecify (opt : BitVec 3) (ps : List Byte)
  | fdcSenseDriveStatus (opt : BitVec 3) (ps : List Byte)
  | fdcWriteData (opt : BitVec 3) (ps : List Byte)
  | fdcReadData (opt : BitVec 3) (ps : List Byte)
  | fdcRecalibrate (opt : BitVec 3) (drive : Byte)
  | fdcSenseInterrupt (opt : BitVec 3)
  | fdcWriteDeletedData (opt : BitVec 3) (ps : List Byte)
  | fdcReadId (opt : BitVec 3) (ps : List Byte)
  | fdcReadDeletedData (opt : BitVec 3) (ps : List Byte)
  | fdcFormatTrack (opt : BitVec 3) (ps : List Byte)
  | fdcSeek (opt : BitVec 3) (drive cylinder : Byte)
  | fdcScanEqual (opt : BitVec 3) (ps : List Byte)
  | fdcScanLowOrEqual (opt : BitVec 3) (ps : List Byte)
  | fdcScanHighOrEqual (opt : BitVec 3) (ps : List Byte)
  | fdcInvalid (b0 : Byte) (ps : List Byte)
deriving DecidableEq, Repr

/-- An operation as an agent hands it to the block (R8, R110, log 1): the operation word of R111 (port accesses of width
8, byte accesses of memory, calls, events), a whole floppy command of R140 and R144, or an access wider than a byte
(R86, R87, R154), which the operation word cannot carry. -/
inductive Request where
  | op (w : OpWord)
  | fdcCmd (bytes : List Byte)
  | portIn16 (p : Word16)
  | portOut16 (p : Word16) (v : Word16)
  | memIn16 (a : Addr)
  | memOut16 (a : Addr) (v : Word16)
deriving DecidableEq, Repr

end Sys2Proof
end

