-- ==== Sys2Proof/WellFormed.lean ====
section
/-! DEFINITION. Which operands an operation's encoding admits (R112, R120, R125, R130 and the masks of
spec/opcode_table.json). The conditions on state or configuration of the table's column "when" are `Instr.when` of
Decode.lean. -/

namespace Sys2Proof

/-- The two ranges the CRTController and the EGAController claim (R81). -/
def inCrtcRange (p : Word16) : Bool :=
  (decide (0x3B0 ≤ p.toNat) && decide (p.toNat ≤ 0x3BB)) || (decide (0x3D0 ≤ p.toNat) && decide (p.toNat ≤ 0x3DC))

/-- The claimed floppy ports without a function: 0x3F0, 0x3F1, 0x3F3, 0x3F6 both ways, 0x3F4 out (R398). -/
def isFdcOther (p : Word16) : PortAccess → Bool
  | .read => p == 0x3F0 || p == 0x3F1 || p == 0x3F3 || p == 0x3F6
  | .write _ => p == 0x3F0 || p == 0x3F1 || p == 0x3F3 || p == 0x3F6 || p == 0x3F4

/-- The opcode of a floppy command's first byte (R130). -/
def fdcOpcode (b0 : Byte) : BitVec 5 := b0.extractLsb' 0 5

/-- The opcodes R130 names. Every other one is INVALID. -/
def namedFdcOpcode (op : BitVec 5) : Bool :=
  op == 0x02 || op == 0x03 || op == 0x04 || op == 0x05 || op == 0x06 || op == 0x07 || op == 0x08 || op == 0x09
  || op == 0x0A || op == 0x0C || op == 0x0D || op == 0x0F || op == 0x11 || op == 0x19 || op == 0x1D

/-- A value's bits 7:6, the counter select of the timer control word (R125). -/
def ctlSelect (v : Byte) : BitVec 2 := v.extractLsb' 6 2

/-- A value's bits 5:4, the access format of the timer control word (R125). -/
def ctlFormat (v : Byte) : BitVec 2 := v.extractLsb' 4 2

/-- The read selection's condition on a command byte: bit 7 = 0, bit 3 = 1, bit 1 = 1 (R120, R181). -/
def selectsRead (v : Byte) : Bool := v &&& 0x8A == 0x0A

namespace Instr

/-- The operands are ones the operation's encoding admits. -/
def wf : Instr → Bool
  | .picIcw0 v => v.getLsbD 4
  | .picEoi v => !v.getLsbD 4 && v.getLsbD 5
  | .picRdsel v => !v.getLsbD 4 && !v.getLsbD 5 && selectsRead v
  | .picOcwNop v => !v.getLsbD 4 && !v.getLsbD 5 && !selectsRead v
  | .picSetmask v => v != 0
  | .pitProg v => ctlSelect v != 3 && ctlFormat v != 0
  | .pitLatch v => ctlSelect v != 3 && ctlFormat v == 0
  | .pitSel3 v => ctlSelect v == 3
  | .crtcWridx p _ => inCrtcRange p
  | .crtcWrdata p _ => inCrtcRange p
  | .crtcRddata p => inCrtcRange p
  | .crtcRdidx p => inCrtcRange p
  | .crtcRdstat p => inCrtcRange p
  | .crtcWrstat p _ => inCrtcRange p
  | .crtcBadport p _ => inCrtcRange p
  | .egaWridx p _ => inCrtcRange p
  | .egaWrdata p _ => inCrtcRange p
  | .egaRddata p => inCrtcRange p
  | .egaRdstat p => inCrtcRange p
  | .egaRdidx p => p == 0x3C4 || p == 0x3CE
  | .fdcOther p acc => isFdcOther p acc
  | .fdcInvalid b0 _ => !namedFdcOpcode (fdcOpcode b0)
  | .dmaWrAddr _ _ => true
  | .dmaWrCnt _ _ => true
  | .dmaRdAddr _ => true
  | .dmaRdCnt _ => true
  | .dmaRdstat => true
  | .dmaWr08 _ => true
  | .picRdstat => true
  | .picIcwn _ => true
  | .picSetmask0 => true
  | .picRdmask => true
  | .pitWr _ _ => true
  | .pitRd _ => true
  | .pitRdctl => true
  | .ppiRda => true
  | .ppiRdb => true
  | .ppiRdc => true
  | .ppiRdctl => true
  | .ppiWra _ => true
  | .ppiWrb _ => true
  | .ppiWrc _ => true
  | .ppiWrctl _ => true
  | .emsWrsel _ _ => true
  | .emsRdsel _ => true
  | .egaWrseqidx _ => true
  | .egaWrseq _ => true
  | .egaRdseq => true
  | .egaWrgfxidx _ => true
  | .egaWrgfx _ => true
  | .egaRdgfx => true
  | .egaWr3c2 _ => true
  | .egaRd3c2 => true
  | .fdcWrdor _ => true
  | .fdcRddor => true
  | .fdcRdmsr => true
  | .fdcWrdata _ => true
  | .fdcRddata => true
  | .fdcWrccr _ => true
  | .fdcRdccr => true
  | .emsMemr _ => true
  | .emsMemw _ _ => true
  | .egaMemr _ => true
  | .egaMemw _ _ => true
  | .picCallirq _ => true
  | .picClearirq _ => true
  | .picHasint => true
  | .picNextint => true
  | .pitTick => true
  | .ppiKeytyped _ => true
  | .crtcGetreg _ => true
  | .fdcInit => true
  | .egaReset => true
  | .evMaskapply => true
  | .evKbdreset => true
  | .fdcReadTrack _ _ => true
  | .fdcSpecify _ _ => true
  | .fdcSenseDriveStatus _ _ => true
  | .fdcWriteData _ _ => true
  | .fdcReadData _ _ => true
  | .fdcRecalibrate _ _ => true
  | .fdcSenseInterrupt _ => true
  | .fdcWriteDeletedData _ _ => true
  | .fdcReadId _ _ => true
  | .fdcReadDeletedData _ _ => true
  | .fdcFormatTrack _ _ => true
  | .fdcSeek _ _ _ => true
  | .fdcScanEqual _ _ => true
  | .fdcScanLowOrEqual _ _ => true
  | .fdcScanHighOrEqual _ _ => true

end Instr

end Sys2Proof
end

