-- ==== Sys2Proof/Decode.lean ====
section
/-! DEFINITION. From a request to the operation it is (the Bus Dispatcher of 40_bus_dispatch.md and the encodings of
30_encoding.md), and back: `decode` is total and rejects by name, `encode` writes the operation word or the floppy
command. What a request is depends on the state in the few places where R112 says so: those pieces of state are `Ctx`. -/

namespace Sys2Proof

/-- What a decoder of requests needs beside the request (R135): the configuration, and whether the InterruptController
is in its initialization sequence. -/
structure Ctx where
  cfg : Config
  icwStep : BitVec 2

/-- Why a request is no operation of the block. -/
inductive DecodeError where
  /-- kind code 6 to 15 (R111 defines 0 to 5; log 34) -/
  | reservedKind
  /-- a bit is 1 that R111, or the row of a function without an argument, fixes as 0 (log 34) -/
  | reservedBits
  /-- CALL function 9 to 15 (R111; log 34) -/
  | noSuchFunction
  /-- EVENT number 2 or more (R111; log 34) -/
  | noSuchEvent
  /-- a floppy command whose bytes are not as many as cbReq asks (R144; log 39) -/
  | commandLength
  /-- a port access of width 16 to a claimed port, P_WIDE_ACCESS = refuse (R154) -/
  | wideAccess
  /-- an access wider than a byte to a region (R86) -/
  | wideRegionAccess
  /-- an address in both regions: the premise of R158 fails (log 35) -/
  | regionsOverlap
deriving DecidableEq, Repr

/-- What a request turns out to be. -/
inductive Access where
  /-- an operation of the opcode table -/
  | instr (i : Instr)
  /-- an IN at a port no registered chip claims (R155) -/
  | unclaimedIn
  /-- an OUT at a port no registered chip claims (R155) -/
  | unclaimedOut
  /-- an IN at a CRTC-range port of role `ignore` (R311, R344) -/
  | ignoredIn
  /-- an OUT at a CRTC-range port of role `ignore` (R311, R344) -/
  | ignoredOut
  /-- a 16-bit read of memory outside both regions (R158, log 21) -/
  | outsideIn16
  /-- a 16-bit write of memory outside both regions (R158, log 21) -/
  | outsideOut16
  | reject (e : DecodeError)
deriving DecidableEq, Repr

/-! ### Parameters read as functions -/

/-- P_CRTC_PORT_ROLE of a port (R311). Ports outside the two ranges have no role. -/
def roleOf (c : Config) (p : Word16) : PortRole :=
  if 0x3B0 ≤ p.toNat ∧ p.toNat ≤ 0x3BB then (c.crtcPortRole[p.toNat - 0x3B0]?).getD .unrecognised
  else if 0x3D0 ≤ p.toNat ∧ p.toNat ≤ 0x3DC then (c.crtcPortRole[12 + (p.toNat - 0x3D0)]?).getD .unrecognised
  else .unrecognised

/-- P_FDC_CBREQ of an opcode: how many bytes the command has, the opcode byte included (R387). -/
def cbReq (c : Config) (op : BitVec 5) : Nat := c.fdcCbReq[op.toNat]'op.isLt

/-- The address, a natural number (R82), lies in the EGA window (R345). -/
def egaWindowHas (n : Nat) : Bool := decide (0xA0000 ≤ n) && decide (n < 0xB0000)

/-- The address, a natural number (R82), lies in the EMS window (R433). -/
def emsWindowHas (c : Config) (n : Nat) : Bool := decide (c.emsBase ≤ n) && decide (n < c.emsBase + 0x10000)

/-- The address, a natural number (R82), lies in a registered region (R158). -/
def regionHas (c : Config) (n : Nat) : Bool := (c.hasEga && egaWindowHas n) || emsWindowHas c n

/-- The address of an access lies in the EGA window (R82, R345). -/
def inEgaWindow (a : Addr) : Bool := egaWindowHas a.toNat

/-- The address of an access lies in the EMS window (R82, R433). -/
def inEmsWindow (c : Config) (a : Addr) : Bool := emsWindowHas c a.toNat

/-! ### The Bus Dispatcher -/

/-- The chips that register with the dispatcher (R157). -/
inductive Chip where
  | dma
  | pic
  | pit
  | ppi
  | fdc
  | ems
  | crtc
  | ega
deriving DecidableEq, Repr

/-- `connected(port)` of each chip: the port map of R81. -/
def connected (chip : Chip) (p : Word16) : Bool :=
  match chip with
  | .dma => decide (p.toNat ≤ 0x08)
  | .pic => decide (0x20 ≤ p.toNat) && decide (p.toNat ≤ 0x21)
  | .pit => decide (0x40 ≤ p.toNat) && decide (p.toNat ≤ 0x43)
  | .ppi => decide (0x60 ≤ p.toNat) && decide (p.toNat ≤ 0x63)
  | .ems => decide (0x260 ≤ p.toNat) && decide (p.toNat ≤ 0x263)
  | .fdc => decide (0x3F0 ≤ p.toNat) && decide (p.toNat ≤ 0x3F7)
  | .crtc => inCrtcRange p
  | .ega => inCrtcRange p || p == 0x3C2 || p == 0x3C4 || p == 0x3C5 || p == 0x3CE || p == 0x3CF

/-- The registered peripherals (R157), in an order that R153 makes unobservable (log 28). -/
def peripherals (c : Config) : List Chip :=
  [.dma, .pic, .pit, .ppi, .fdc, .ems, if c.hasEga then .ega else .crtc]

/-- Dispatch (R151): the first registered chip that claims the port. -/
def claimant (c : Config) (p : Word16) : Option Chip := (peripherals c).find? (fun chip => connected chip p)

/-! ### Operand assembly of ports (R114) -/

/-- The DMA channel of a port: `port / 2` (R211). -/
def dmaChannel (p : Word16) : BitVec 2 := p.extractLsb' 1 2

/-- The EMS sub-window of a port: `port & 3` (R431). -/
def emsSubWindow (p : Word16) : BitVec 2 := p.extractLsb' 0 2

/-- The timer counter a two-bit select names; 3 names none (R114, R125). -/
def counterOf (sel : BitVec 2) : Option (Fin 3) :=
  if sel = 0 then some 0 else if sel = 1 then some 1 else if sel = 2 then some 2 else none

/-! ### decode -/

/-- An OUT at the 8259's command port (R177, R179). A byte that is an End-Of-Interrupt and a read selection at once is
named PIC_EOI (log 27) and does both (R179). -/
def decodePicCommand (v : Byte) : Instr :=
  if v.getLsbD 4 then .picIcw0 v
  else if v.getLsbD 5 then .picEoi v
  else if selectsRead v then .picRdsel v
  else .picOcwNop v

/-- An OUT at the 8259's mask port (R182, R183, R184). -/
def decodePicMask (icwStep : BitVec 2) (v : Byte) : Instr :=
  if icwStep ≠ 0 then .picIcwn v else if v ≠ 0 then .picSetmask v else .picSetmask0

/-- An OUT at the 8253's control port (R231). -/
def decodePitControl (v : Byte) : Instr :=
  if ctlSelect v = 3 then .pitSel3 v else if ctlFormat v = 0 then .pitLatch v else .pitProg v

/-- An IN at a claimed CRTC-range port, by the port's role (R311, R331, R344). -/
def decodeCrtcIn (c : Config) (p : Word16) : Access :=
  match roleOf c p with
  | .index => .instr (.crtcRdidx p)
  | .data => if c.hasEga then .instr (.egaRddata p) else .instr (.crtcRddata p)
  | .status => if c.hasEga then .instr (.egaRdstat p) else .instr (.crtcRdstat p)
  | .ignore => .ignoredIn
  | .unrecognised => .instr (.crtcBadport p .read)

/-- An OUT at a claimed CRTC-range port, by the port's role (R311, R331, R344). -/
def decodeCrtcOut (c : Config) (p : Word16) (v : Byte) : Access :=
  match roleOf c p with
  | .index => if c.hasEga then .instr (.egaWridx p v) else .instr (.crtcWridx p v)
  | .data => if c.hasEga then .instr (.egaWrdata p v) else .instr (.crtcWrdata p v)
  | .status => .instr (.crtcWrstat p v)
  | .ignore => .ignoredOut
  | .unrecognised => .instr (.crtcBadport p (.write v))

/-- An IN of width 8 (R112, R151). -/
def decodeIn (c : Ctx) (p : Word16) : Access :=
  match claimant c.cfg p with
  | none => .unclaimedIn
  | some .dma =>
    if p = 0x08 then .instr .dmaRdstat
    else if p.getLsbD 0 then .instr (.dmaRdCnt (dmaChannel p)) else .instr (.dmaRdAddr (dmaChannel p))
  | some .pic => if p = 0x20 then .instr .picRdstat else .instr .picRdmask
  | some .pit =>
    match counterOf (p.extractLsb' 0 2) with
    | some k => .instr (.pitRd k)
    | none => .instr .pitRdctl
  | some .ppi =>
    if p = 0x60 then .instr .ppiRda
    else if p = 0x61 then .instr .ppiRdb
    else if p = 0x62 then .instr .ppiRdc
    else .instr .ppiRdctl
  | some .ems => .instr (.emsRdsel (emsSubWindow p))
  | some .fdc =>
    if p = 0x3F2 then .instr .fdcRddor
    else if p = 0x3F4 then .instr .fdcRdmsr
    else if p = 0x3F5 then .instr .fdcRddata
    else if p = 0x3F7 then .instr .fdcRdccr
    else .instr (.fdcOther p .read)
  | some .crtc => decodeCrtcIn c.cfg p
  | some .ega =>
    if p = 0x3C2 then .instr .egaRd3c2
    else if p = 0x3C4 ∨ p = 0x3CE then .instr (.egaRdidx p)
    else if p = 0x3C5 then .instr .egaRdseq
    else if p = 0x3CF then .instr .egaRdgfx
    else decodeCrtcIn c.cfg p

/-- An OUT of width 8 (R112, R151). -/
def decodeOut (c : Ctx) (p : Word16) (v : Byte) : Access :=
  match claimant c.cfg p with
  | none => .unclaimedOut
  | some .dma =>
    if p = 0x08 then .instr (.dmaWr08 v)
    else if p.getLsbD 0 then .instr (.dmaWrCnt (dmaChannel p) v) else .instr (.dmaWrAddr (dmaChannel p) v)
  | some .pic => if p = 0x20 then .instr (decodePicCommand v) else .instr (decodePicMask c.icwStep v)
  | some .pit =>
    match counterOf (p.extractLsb' 0 2) with
    | some k => .instr (.pitWr k v)
    | none => .instr (decodePitControl v)
  | some .ppi =>
    if p = 0x60 then .instr (.ppiWra v)
    else if p = 0x61 then .instr (.ppiWrb v)
    else if p = 0x62 then .instr (.ppiWrc v)
    else .instr (.ppiWrctl v)
  | some .ems => .instr (.emsWrsel (emsSubWindow p) v)
  | some .fdc =>
    if p = 0x3F2 then .instr (.fdcWrdor v)
    else if p = 0x3F5 then .instr (.fdcWrdata v)
    else if p = 0x3F7 then .instr (.fdcWrccr v)
    else .instr (.fdcOther p (.write v))
  | some .crtc => decodeCrtcOut c.cfg p v
  | some .ega =>
    if p = 0x3C2 then .instr (.egaWr3c2 v)
    else if p = 0x3C4 then .instr (.egaWrseqidx v)
    else if p = 0x3C5 then .instr (.egaWrseq v)
    else if p = 0x3CE then .instr (.egaWrgfxidx v)
    else if p = 0x3CF then .instr (.egaWrgfx v)
    else decodeCrtcOut c.cfg p v

/-- A byte read of memory (R158): the EGA window's if there is an EGA, else offered to the EMS card (log 21). -/
def decodeMemRead (c : Config) (a : Addr) : Access :=
  if c.hasEga ∧ inEgaWindow a then
    if inEmsWindow c a then .reject .regionsOverlap else .instr (.egaMemr (a.extractLsb' 0 16))
  else .instr (.emsMemr a)

/-- A byte write of memory (R158). -/
def decodeMemWrite (c : Config) (a : Addr) (v : Byte) : Access :=
  if c.hasEga ∧ inEgaWindow a then
    if inEmsWindow c a then .reject .regionsOverlap else .instr (.egaMemw (a.extractLsb' 0 16) v)
  else .instr (.emsMemw a v)

/-- A call, by its function number and argument (R111). The rows of the five functions without an argument fix bits 15:0
as 0 (spec/opcode_table.json, R144); rejecting a word with other bits there, which selects no row, is the model's choice
(log 34). -/
def decodeCall (fn : BitVec 4) (arg : Word16) : Access :=
  if fn = 0 then .instr (.picCallirq arg)
  else if fn = 1 then .instr (.picClearirq arg)
  else if fn = 5 then .instr (.ppiKeytyped arg)
  else if fn = 6 then .instr (.crtcGetreg arg)
  else if 9 ≤ fn.toNat then .reject .noSuchFunction
  else if arg ≠ 0 then .reject .reservedBits
  else if fn = 2 then .instr .picHasint
  else if fn = 3 then .instr .picNextint
  else if fn = 4 then .instr .pitTick
  else if fn = 7 then .instr .fdcInit
  else .instr .egaReset

/-- A delayed event, by its number (R111). -/
def decodeEvent (n : Byte) : Access :=
  if n = 0 then .instr .evMaskapply else if n = 1 then .instr .evKbdreset else .reject .noSuchEvent

/-- An operation word (R111): bits 31:28 the kind, then the fields of that kind. -/
def decodeWord (c : Ctx) (w : OpWord) : Access :=
  let kind := w.extractLsb' 28 4
  let low := w.extractLsb' 0 8
  if kind = 0 then
    if w.extractLsb' 24 4 = 0 ∧ low = 0 then decodeIn c (w.extractLsb' 8 16) else .reject .reservedBits
  else if kind = 1 then
    if w.extractLsb' 24 4 = 0 then decodeOut c (w.extractLsb' 8 16) low else .reject .reservedBits
  else if kind = 2 then
    if low = 0 then decodeMemRead c.cfg (w.extractLsb' 8 20) else .reject .reservedBits
  else if kind = 3 then decodeMemWrite c.cfg (w.extractLsb' 8 20) low
  else if kind = 4 then
    if w.extractLsb' 16 8 = 0 then decodeCall (w.extractLsb' 24 4) (w.extractLsb' 0 16) else .reject .reservedBits
  else if kind = 5 then
    if w.extractLsb' 8 20 = 0 then decodeEvent low else .reject .reservedBits
  else .reject .reservedKind

/-- The floppy command that an opcode byte and its parameter bytes are (R130, R388). None where RECALIBRATE,
SENSE_INTERRUPT or SEEK comes with another number of parameters than R390 to R392 give it. -/
def fdcCommand (b0 : Byte) (ps : List Byte) : Option Instr :=
  let op := fdcOpcode b0
  let opt := b0.extractLsb' 5 3
  if op = 0x02 then some (.fdcReadTrack opt ps)
  else if op = 0x03 then some (.fdcSpecify opt ps)
  else if op = 0x04 then some (.fdcSenseDriveStatus opt ps)
  else if op = 0x05 then some (.fdcWriteData opt ps)
  else if op = 0x06 then some (.fdcReadData opt ps)
  else if op = 0x07 then (match ps with | [d] => some (.fdcRecalibrate opt d) | _ => none)
  else if op = 0x08 then (match ps with | [] => some (.fdcSenseInterrupt opt) | _ => none)
  else if op = 0x09 then some (.fdcWriteDeletedData opt ps)
  else if op = 0x0A then some (.fdcReadId opt ps)
  else if op = 0x0C then some (.fdcReadDeletedData opt ps)
  else if op = 0x0D then some (.fdcFormatTrack opt ps)
  else if op = 0x0F then (match ps with | [d, n] => some (.fdcSeek opt d n) | _ => none)
  else if op = 0x11 then some (.fdcScanEqual opt ps)
  else if op = 0x19 then some (.fdcScanLowOrEqual opt ps)
  else if op = 0x1D then some (.fdcScanHighOrEqual opt ps)
  else some (.fdcInvalid b0 ps)

/-- A floppy command's bytes (R140, R144): as many as cbReq asks of the first one. -/
def decodeFdc (c : Config) : List Byte → Access
  | [] => .reject .commandLength
  | b0 :: ps =>
    if ps.length + 1 = cbReq c (fdcOpcode b0) then
      match fdcCommand b0 ps with
      | some i => .instr i
      | none => .reject .commandLength
    else .reject .commandLength

/-- A port access of width 16 (R154): refused at a claimed port, or the width-8 access of its low byte. An unclaimed port
stays unclaimed (R155, log 23). -/
def decodeWide (c : Ctx) (p : Word16) (narrow : Access) : Access :=
  match claimant c.cfg p, c.cfg.wideAccess with
  | some _, .refuse => .reject .wideAccess
  | _, _ => narrow

/-- A memory access of two bytes: refused where it touches a region (R86). Its bytes are those at `a` and `a + 1` (log
24); the sum is exact (R9, R82), so the byte after 0xFFFFF is the one at 0x100000. -/
def decodeMemWide (c : Ctx) (a : Addr) (outside : Access) : Access :=
  if regionHas c.cfg a.toNat || regionHas c.cfg (a.toNat + 1) then .reject .wideRegionAccess else outside

/-- What a request is, in its context. -/
def decode (c : Ctx) : Request → Access
  | .op w => decodeWord c w
  | .fdcCmd bytes => decodeFdc c.cfg bytes
  | .portIn16 p => decodeWide c p (decodeIn c p)
  | .portOut16 p v => decodeWide c p (decodeOut c p (v.extractLsb' 0 8))
  | .memIn16 a => decodeMemWide c a .outsideIn16
  | .memOut16 a _ => decodeMemWide c a .outsideOut16

/-! ### encode -/

/-- The operation word of an IN (R111). -/
def inWord (p : Word16) : OpWord := 0x00#8 ++ p ++ 0x00#8

/-- The operation word of an OUT (R111). -/
def outWord (p : Word16) (v : Byte) : OpWord := 0x10#8 ++ p ++ v

/-- The operation word of a MEMR (R111). -/
def memrWord (a : Addr) : OpWord := 0x2#4 ++ a ++ 0x00#8

/-- The operation word of a MEMW (R111). -/
def memwWord (a : Addr) (v : Byte) : OpWord := 0x3#4 ++ a ++ v

/-- The operation word of a CALL (R111). -/
def callWord (fn : BitVec 4) (arg : Word16) : OpWord := 0x4#4 ++ fn ++ 0x00#8 ++ arg

/-- The operation word of an EVENT (R111). -/
def eventWord (n : Byte) : OpWord := 0x500000#24 ++ n

/-- The word of an access of either direction. -/
def accessWord (p : Word16) : PortAccess → OpWord
  | .read => inWord p
  | .write v => outWord p v

/-- The DMA port of a channel: even for the address, odd for the count (R211). -/
def dmaPort (ch : BitVec 2) (count : Bool) : Word16 := 0#13 ++ ch ++ BitVec.ofBool count

/-- The data port of a timer counter (R114). -/
def pitPort (k : Fin 3) : Word16 := 0x40#16 + BitVec.ofNat 16 k.val

/-- The selector port of an EMS sub-window (R114). -/
def emsPort (sub : BitVec 2) : Word16 := 0x98#14 ++ sub

/-- A floppy command's first byte: the option bits, then the opcode (R130). -/
def fdcByte0 (opt : BitVec 3) (op : BitVec 5) : Byte := opt ++ op

/-- The request that an operation is, written from the encodings of R111, R112, R113 and R130. -/
def encode : Instr → Request
  | .dmaWrAddr ch v => .op (outWord (dmaPort ch false) v)
  | .dmaWrCnt ch v => .op (outWord (dmaPort ch true) v)
  | .dmaRdAddr ch => .op (inWord (dmaPort ch false))
  | .dmaRdCnt ch => .op (inWord (dmaPort ch true))
  | .dmaRdstat => .op (inWord 0x08)
  | .dmaWr08 v => .op (outWord 0x08 v)
  | .picIcw0 v => .op (outWord 0x20 v)
  | .picEoi v => .op (outWord 0x20 v)
  | .picRdsel v => .op (outWord 0x20 v)
  | .picOcwNop v => .op (outWord 0x20 v)
  | .picRdstat => .op (inWord 0x20)
  | .picIcwn v => .op (outWord 0x21 v)
  | .picSetmask v => .op (outWord 0x21 v)
  | .picSetmask0 => .op (outWord 0x21 0)
  | .picRdmask => .op (inWord 0x21)
  | .pitWr k v => .op (outWord (pitPort k) v)
  | .pitRd k => .op (inWord (pitPort k))
  | .pitProg v => .op (outWord 0x43 v)
  | .pitLatch v => .op (outWord 0x43 v)
  | .pitSel3 v => .op (outWord 0x43 v)
  | .pitRdctl => .op (inWord 0x43)
  | .ppiRda => .op (inWord 0x60)
  | .ppiRdb => .op (inWord 0x61)
  | .ppiRdc => .op (inWord 0x62)
  | .ppiRdctl => .op (inWord 0x63)
  | .ppiWra v => .op (outWord 0x60 v)
  | .ppiWrb v => .op (outWord 0x61 v)
  | .ppiWrc v => .op (outWord 0x62 v)
  | .ppiWrctl v => .op (outWord 0x63 v)
  | .emsWrsel sub v => .op (outWord (emsPort sub) v)
  | .emsRdsel sub => .op (inWord (emsPort sub))
  | .crtcWridx p v => .op (outWord p v)
  | .crtcWrdata p v => .op (outWord p v)
  | .crtcRddata p => .op (inWord p)
  | .crtcRdidx p => .op (inWord p)
  | .crtcRdstat p => .op (inWord p)
  | .crtcWrstat p v => .op (outWord p v)
  | .crtcBadport p acc => .op (accessWord p acc)
  | .egaWridx p v => .op (outWord p v)
  | .egaWrdata p v => .op (outWord p v)
  | .egaRddata p => .op (inWord p)
  | .egaRdstat p => .op (inWord p)
  | .egaWrseqidx v => .op (outWord 0x3C4 v)
  | .egaWrseq v => .op (outWord 0x3C5 v)
  | .egaRdseq => .op (inWord 0x3C5)
  | .egaWrgfxidx v => .op (outWord 0x3CE v)
  | .egaWrgfx v => .op (outWord 0x3CF v)
  | .egaRdgfx => .op (inWord 0x3CF)
  | .egaWr3c2 v => .op (outWord 0x3C2 v)
  | .egaRd3c2 => .op (inWord 0x3C2)
  | .egaRdidx p => .op (inWord p)
  | .fdcWrdor v => .op (outWord 0x3F2 v)
  | .fdcRddor => .op (inWord 0x3F2)
  | .fdcRdmsr => .op (inWord 0x3F4)
  | .fdcWrdata v => .op (outWord 0x3F5 v)
  | .fdcRddata => .op (inWord 0x3F5)
  | .fdcWrccr v => .op (outWord 0x3F7 v)
  | .fdcRdccr => .op (inWord 0x3F7)
  | .fdcOther p acc => .op (accessWord p acc)
  | .emsMemr a => .op (memrWord a)
  | .emsMemw a v => .op (memwWord a v)
  | .egaMemr off => .op (memrWord (0xA#4 ++ off))
  | .egaMemw off v => .op (memwWord (0xA#4 ++ off) v)
  | .picCallirq line => .op (callWord 0 line)
  | .picClearirq line => .op (callWord 1 line)
  | .picHasint => .op (callWord 2 0)
  | .picNextint => .op (callWord 3 0)
  | .pitTick => .op (callWord 4 0)
  | .ppiKeytyped code => .op (callWord 5 code)
  | .crtcGetreg i => .op (callWord 6 i)
  | .fdcInit => .op (callWord 7 0)
  | .egaReset => .op (callWord 8 0)
  | .evMaskapply => .op (eventWord 0)
  | .evKbdreset => .op (eventWord 1)
  | .fdcReadTrack opt ps => .fdcCmd (fdcByte0 opt 0x02 :: ps)
  | .fdcSpecify opt ps => .fdcCmd (fdcByte0 opt 0x03 :: ps)
  | .fdcSenseDriveStatus opt ps => .fdcCmd (fdcByte0 opt 0x04 :: ps)
  | .fdcWriteData opt ps => .fdcCmd (fdcByte0 opt 0x05 :: ps)
  | .fdcReadData opt ps => .fdcCmd (fdcByte0 opt 0x06 :: ps)
  | .fdcRecalibrate opt d => .fdcCmd [fdcByte0 opt 0x07, d]
  | .fdcSenseInterrupt opt => .fdcCmd [fdcByte0 opt 0x08]
  | .fdcWriteDeletedData opt ps => .fdcCmd (fdcByte0 opt 0x09 :: ps)
  | .fdcReadId opt ps => .fdcCmd (fdcByte0 opt 0x0A :: ps)
  | .fdcReadDeletedData opt ps => .fdcCmd (fdcByte0 opt 0x0C :: ps)
  | .fdcFormatTrack opt ps => .fdcCmd (fdcByte0 opt 0x0D :: ps)
  | .fdcSeek opt d n => .fdcCmd [fdcByte0 opt 0x0F, d, n]
  | .fdcScanEqual opt ps => .fdcCmd (fdcByte0 opt 0x11 :: ps)
  | .fdcScanLowOrEqual opt ps => .fdcCmd (fdcByte0 opt 0x19 :: ps)
  | .fdcScanHighOrEqual opt ps => .fdcCmd (fdcByte0 opt 0x1D :: ps)
  | .fdcInvalid b0 ps => .fdcCmd (b0 :: ps)

/-! ### The table's column "when" -/

/-- The condition on configuration and state under which the table gives an encoding this name (R112, R113, R144). -/
def Instr.when (c : Ctx) : Instr → Bool
  | .picIcwn _ => c.icwStep != 0
  | .picSetmask _ => c.icwStep == 0
  | .picSetmask0 => c.icwStep == 0
  | .crtcWridx p _ => !c.cfg.hasEga && roleOf c.cfg p == .index
  | .crtcWrdata p _ => !c.cfg.hasEga && roleOf c.cfg p == .data
  | .crtcRddata p => !c.cfg.hasEga && roleOf c.cfg p == .data
  | .crtcRdstat p => !c.cfg.hasEga && roleOf c.cfg p == .status
  | .crtcRdidx p => roleOf c.cfg p == .index
  | .crtcWrstat p _ => roleOf c.cfg p == .status
  | .crtcBadport p _ => roleOf c.cfg p == .unrecognised
  | .egaWridx p _ => c.cfg.hasEga && roleOf c.cfg p == .index
  | .egaWrdata p _ => c.cfg.hasEga && roleOf c.cfg p == .data
  | .egaRddata p => c.cfg.hasEga && roleOf c.cfg p == .data
  | .egaRdstat p => c.cfg.hasEga && roleOf c.cfg p == .status
  | .egaWrseqidx _ => c.cfg.hasEga
  | .egaWrseq _ => c.cfg.hasEga
  | .egaRdseq => c.cfg.hasEga
  | .egaWrgfxidx _ => c.cfg.hasEga
  | .egaWrgfx _ => c.cfg.hasEga
  | .egaRdgfx => c.cfg.hasEga
  | .egaWr3c2 _ => c.cfg.hasEga
  | .egaRd3c2 => c.cfg.hasEga
  | .egaRdidx _ => c.cfg.hasEga
  | .emsMemr a => !(c.cfg.hasEga && inEgaWindow a)
  | .emsMemw a _ => !(c.cfg.hasEga && inEgaWindow a)
  | .egaMemr off => c.cfg.hasEga && !inEmsWindow c.cfg (0xA#4 ++ off)
  | .egaMemw off _ => c.cfg.hasEga && !inEmsWindow c.cfg (0xA#4 ++ off)
  | .fdcReadTrack _ ps => cbReq c.cfg 0x02 == ps.length + 1
  | .fdcSpecify _ ps => cbReq c.cfg 0x03 == ps.length + 1
  | .fdcSenseDriveStatus _ ps => cbReq c.cfg 0x04 == ps.length + 1
  | .fdcWriteData _ ps => cbReq c.cfg 0x05 == ps.length + 1
  | .fdcReadData _ ps => cbReq c.cfg 0x06 == ps.length + 1
  | .fdcRecalibrate _ _ => cbReq c.cfg 0x07 == 2
  | .fdcSenseInterrupt _ => cbReq c.cfg 0x08 == 1
  | .fdcWriteDeletedData _ ps => cbReq c.cfg 0x09 == ps.length + 1
  | .fdcReadId _ ps => cbReq c.cfg 0x0A == ps.length + 1
  | .fdcReadDeletedData _ ps => cbReq c.cfg 0x0C == ps.length + 1
  | .fdcFormatTrack _ ps => cbReq c.cfg 0x0D == ps.length + 1
  | .fdcSeek _ _ _ => cbReq c.cfg 0x0F == 3
  | .fdcScanEqual _ ps => cbReq c.cfg 0x11 == ps.length + 1
  | .fdcScanLowOrEqual _ ps => cbReq c.cfg 0x19 == ps.length + 1
  | .fdcScanHighOrEqual _ ps => cbReq c.cfg 0x1D == ps.length + 1
  | .fdcInvalid b0 ps => cbReq c.cfg (fdcOpcode b0) == ps.length + 1
  | .dmaWrAddr _ _ => true
  | .dmaWrCnt _ _ => true
  | .dmaRdAddr _ => true
  | .dmaRdCnt _ => true
  | .dmaRdstat => true
  | .dmaWr08 _ => true
  | .picIcw0 _ => true
  | .picEoi _ => true
  | .picRdsel _ => true
  | .picOcwNop _ => true
  | .picRdstat => true
  | .picRdmask => true
  | .pitWr _ _ => true
  | .pitRd _ => true
  | .pitProg _ => true
  | .pitLatch _ => true
  | .pitSel3 _ => true
  | .pitRdctl => true
  | .ppiRda => true
  | .ppiRdb => true
  | .ppiRdc => true
  | .ppiRdctl => true
  | .ppiWra _ => true
  | .ppiWrb _ => true
  | .ppiWrc _ => true
  | .ppiWrctl _ => true
  | .emsWrsel _ _ => true
  | .emsRdsel _ => true
  | .fdcWrdor _ => true
  | .fdcRddor => true
  | .fdcRdmsr => true
  | .fdcWrdata _ => true
  | .fdcRddata => true
  | .fdcWrccr _ => true
  | .fdcRdccr => true
  | .fdcOther _ _ => true
  | .picCallirq _ => true
  | .picClearirq _ => true
  | .picHasint => true
  | .picNextint => true
  | .pitTick => true
  | .ppiKeytyped _ => true
  | .crtcGetreg _ => true
  | .fdcInit => true
  | .egaReset => true
  | .evMaskapply => true
  | .evKbdreset => true

/-! ### The host's reading of the table -/

/-- The request that a row of spec/opcode_table.json is: a row of 8 bits is a floppy command's opcode byte, completed with
zero parameter bytes to the command's length; any other is an operation word (R144, log 40). -/
def tableRequest (c : Config) (nbits w : Nat) : Request :=
  if nbits ≤ 8 then
    let b0 := BitVec.ofNat 8 w
    .fdcCmd (b0 :: List.replicate (cbReq c (fdcOpcode b0) - 1) 0)
  else .op (BitVec.ofNat 32 w)

/-- The context of the machine in `State.reset`. -/
def Ctx.atReset : Ctx := { cfg := Config.machine, icwStep := 0 }

/-- The operation the decoder reads from a table row's word, in the context of the reset machine (log 40). -/
def decodeTableWord (nbits w : Nat) : Option Instr :=
  match decode Ctx.atReset (tableRequest Ctx.atReset.cfg nbits w) with
  | .instr i => some i
  | _ => none

end Sys2Proof
end

