-- ==== Sys2Proof/Machine/State.lean ====
section
/-! DEFINITION. The state of the block (10_state.md), the reasons a step can stop, and the machine after construction. -/

namespace Sys2Proof.Machine

/-- A private byte store (R83): the cells whose byte is not 0, addresses strictly rising. A cell that is not listed
holds 0, which is what R35 and R38 give every cell at construction (log 36). -/
abbrev Memory := List Host.Cell

/-- InterruptController (R23). -/
structure Pic where
  irr : Byte
  isr : Byte
  imr : Byte
  imrShadow : Byte
  icw : Vector Byte 4
  icwStep : BitVec 2
  readIsr : Bool
  maskApplyPending : Bool
deriving DecidableEq, Repr

/-- A channel of the DMAController (R25). -/
structure Channel where
  address : Word16
  count : Word16
  toggle : Bool
deriving DecidableEq, Repr

/-- DMAController (R25). -/
structure Dma where
  ch : Vector Channel 4
deriving DecidableEq, Repr

/-- A counter of the IntervalTimer (R27). -/
structure Counter where
  value : Word16
  count : Word16
  control : Byte
  latch : Word16
  latched : Bool
  enabled : Bool
  output : Bool
  readToggle : Bool
  writeToggle : Bool
deriving DecidableEq, Repr

/-- IntervalTimer (R27). -/
structure Pit where
  c : Vector Counter 3
deriving DecidableEq, Repr

/-- ParallelInterface (R30). -/
structure Ppi where
  scan : Word16
  portB : Byte
  portC : Byte
  ctrl : Byte
  clk2 : Nat
  clkBit : Bool
  resetPending : Nat
deriving DecidableEq, Repr

/-- CRTController (R32): the registered one, and the one the EGAController wraps. -/
structure Crtc where
  index : Byte
  reg : Vector Byte 18
  retracePhase : BitVec 2
deriving DecidableEq, Repr

/-- EGAController (R34). -/
structure Ega where
  crtc : Crtc
  reg : Vector Byte 7
  seq : Vector Byte 6
  gfx : Vector Byte 9
  test : Nat
  seqIndex : Byte
  gfxIndex : Byte
  rr : BitVec 2
  lastMode : Byte
  vram : Vector Memory 4
deriving DecidableEq, Repr

/-- A drive of the FloppyController (R36). -/
structure Drive where
  heads : Nat
  cylinders : Nat
  sectorsPerTrack : Nat
  headPos : Nat
  cylinderPos : Nat
  seekTarget : Byte
  resultCode : Byte
deriving DecidableEq, Repr

/-- FloppyController (R36). -/
structure Fdc where
  status : Byte
  buf : Vector Byte 9
  wr : Nat
  rd : Nat
  outputReg : Byte
  inputReg : Byte
  controlReg : Byte
  currentDrive : BitVec 2
  drive : Vector Drive 4
deriving DecidableEq, Repr

/-- ExpandedMemory (R37). -/
structure Ems where
  sel : Vector Byte 4
  store : Memory
deriving DecidableEq, Repr

/-- What an operation returns to its caller (the column "result" of R110 and R111; log 3). -/
inductive Result where
  | none
  | byte (v : Byte)
  | word (v : Word16)
  | flag (b : Bool)
deriving DecidableEq, Repr

/-- The block. `cfg` is the configuration, which no step changes (R42, log 6). The last three fields are the model's own:
the operations still to be performed, in order (log 1), what the operation just performed returned (log 3), and how many
free values have been taken (log 4). -/
structure State where
  cfg : Config
  pic : Pic
  dma : Dma
  pit : Pit
  ppi : Ppi
  crtc : Crtc
  ega : Ega
  fdc : Fdc
  ems : Ems
  requests : List Request
  result : Result
  draws : Nat
deriving DecidableEq, Repr

/-- The causes of the block's fault, the table of R451. -/
inductive Violation where
  /-- OUT to a CRTC index port, no EGA, value 0x12 or more (R312) -/
  | crtcIndex
  /-- OUT to a CRTC index port, with the EGA, value above 0x18 (R333) -/
  | egaIndex
  /-- OUT 0x3C4, value above 5 (R336) -/
  | sequencerIndex
  /-- OUT 0x3CE, value above 8 (R338) -/
  | graphicsIndex
  /-- an access to a CRTC-range port without a role (R318) -/
  | crtcPort
  /-- an EMS window access through a selector of 128 or more, P_EMS_OOB = fault (R436) -/
  | emsSelector
deriving DecidableEq, Repr

/-- Why the machine stops with a fault. -/
inductive Fault where
  /-- HardwareProtocolViolation, the only fault of the block (R450): raised by the operations of R451, before their first
  write. Safe: the spec itself ends the run there (R452). -/
  | hardwareProtocolViolation (cause : Violation)
deriving DecidableEq, Repr

/-- Why a step has no meaning: the spec's `refuse` (R11), and requests that encode no operation. -/
inductive Refusal where
  /-- An operation of the table that the model gives no meaning yet: raised by arms of `exec`. Safe. -/
  | notModelled (mnemonic : String)
  /-- A request that is no operation of the block: raised by `perform` (R154, R86, R158, logs 34, 35, 39). Safe. -/
  | notAnOperation (e : DecodeError)
  /-- callIRQ or clearIRQ with a line above 7: raised by PIC_CALLIRQ, PIC_CLEARIRQ (R171). Safe. -/
  | lineOutOfRange
  /-- getRegister(i) with i above 17: raised by CRTC_GETREG (R319). Safe. -/
  | registerOutOfRange
  /-- RECALIBRATE or SEEK addressed to a drive that is not present: raised by FDC_WRDATA and the floppy commands
  (R396). Safe. -/
  | driveAbsent
  /-- A window write outside the chained layout with no P_EGA_WRITE_CLASS: raised by EGA_MEMW (R347). Safe. -/
  | noWriteClass
  /-- A delayed event that no operation has queued: raised by EV_MASKAPPLY, EV_KBDRESET (R187, R291, log 20). Safe. -/
  | eventNotPending
  /-- egaReset() on a machine without an EGAController: raised by EGA_RESET (R157, R343, log 25). Safe. -/
  | noEga
deriving DecidableEq, Repr

/-! ### Construction (R20, R21, R490) -/

/-- R24. -/
def Pic.initial : Pic :=
  { irr := 0, isr := 0, imr := 0, imrShadow := 0, icw := Vector.replicate 4 0, icwStep := 0, readIsr := false,
    maskApplyPending := false }

/-- R26. -/
def Dma.initial : Dma := { ch := Vector.replicate 4 { address := 0, count := 0, toggle := false } }

/-- R29. -/
def Pit.initial : Pit :=
  { c := Vector.replicate 3
      { value := 0, count := 0, control := 0, latch := 0, latched := false, enabled := false, output := false,
        readToggle := false, writeToggle := false } }

/-- R31. -/
def Ppi.initial : Ppi :=
  { scan := 0, portB := 0, portC := 0, ctrl := 0, clk2 := 0, clkBit := false, resetPending := 0 }

/-- R33. -/
def Crtc.initial : Crtc := { index := 0, reg := Vector.replicate 18 0, retracePhase := 0 }

/-- R35. -/
def Ega.initial : Ega :=
  { crtc := Crtc.initial, reg := Vector.replicate 7 0, seq := Vector.replicate 6 0, gfx := Vector.replicate 9 0,
    test := 0, seqIndex := 0, gfxIndex := 0, rr := 0, lastMode := 0, vram := Vector.replicate 4 [] }

/-- A drive after construction: the geometry from P_FDC_GEOM, everything else 0 (R36). -/
def Drive.initial (g : Geometry) : Drive :=
  { heads := g.heads, cylinders := g.cylinders, sectorsPerTrack := g.sectorsPerTrack, headPos := 0, cylinderPos := 0,
    seekTarget := 0, resultCode := 0 }

/-- R36, the column "value after construction". -/
def Fdc.initial (cfg : Config) : Fdc :=
  { status := cfg.fdcMsrIdle, buf := Vector.replicate 9 0, wr := 0, rd := 0, outputReg := 0, inputReg := 0,
    controlReg := 0, currentDrive := 0
    drive := #v[Drive.initial cfg.fdcGeom[0], Drive.initial cfg.fdcGeom[1], Drive.initial cfg.fdcGeom[2],
                Drive.initial cfg.fdcGeom[3]] }

/-- R38. -/
def Ems.initial : Ems := { sel := Vector.replicate 4 0, store := [] }

/-- The block constructed with a configuration (R490): no delayed event queued, nothing requested yet. -/
def State.construct (cfg : Config) : State :=
  { cfg := cfg, pic := Pic.initial, dma := Dma.initial, pit := Pit.initial, ppi := Ppi.initial, crtc := Crtc.initial,
    ega := Ega.initial, fdc := Fdc.initial cfg, ems := Ems.initial, requests := [], result := .none, draws := 0 }

/-- The machine right after reset: the block constructed with `Config.machine` (R490). -/
def State.reset : State := State.construct Config.machine

end Sys2Proof.Machine
end

