-- ==== Sys2Proof/Machine/Ops.lean ====
section
/-! DEFINITION. The named operations over stores and registers, the ways an operation ends, the block's fault, and the
interrupt service of the InterruptController: requests, entry (R458) and end of service (R459). -/

namespace Sys2Proof.Machine

/-! ### Stores -/

/-- The byte a store holds at a cell number. An unlisted cell holds 0 (R35, R38, log 36). -/
def Memory.read : Memory → Nat → Byte
  | [], _ => 0#8
  | (a, b) :: rest, n => if a = n then b else Memory.read rest n

/-- A store with one byte written, in canonical form: a cell that comes to hold 0 leaves the list. -/
def Memory.write : Memory → Nat → Byte → Memory
  | [], n, v => if v = 0#8 then [] else [(n, v)]
  | (a, b) :: rest, n, v =>
    if n < a then (if v = 0#8 then (a, b) :: rest else (n, v) :: (a, b) :: rest)
    else if n = a then (if v = 0#8 then rest else (a, v) :: rest)
    else (a, b) :: Memory.write rest n v

/-- Every listed cell number is above `low`, the numbers rise strictly, and no listed byte is 0. -/
def Memory.wfAbove : Nat → Memory → Bool
  | _, [] => true
  | low, (a, b) :: rest => decide (low < a) && b != 0#8 && Memory.wfAbove a rest

/-- The canonical form: the numbers rise strictly and no listed byte is 0. -/
def Memory.wf : Memory → Bool
  | [] => true
  | (a, b) :: rest => b != 0#8 && Memory.wfAbove a rest

/-- Every listed cell number is below `size`. -/
def Memory.within (size : Nat) (m : Memory) : Bool := m.all (fun cell => decide (cell.1 < size))

/-! ### Register banks -/

/-- An element of a bank of byte registers. A number outside the bank reads 0; no reachable state has one (log 30). -/
def bankRead {n : Nat} (bank : Vector Byte n) (i : Nat) : Byte := (bank[i]?).getD 0

/-- A bank with one element written. A number outside the bank writes nothing (log 30). -/
def bankWrite {n : Nat} (bank : Vector Byte n) (i : Nat) (v : Byte) : Vector Byte n := bank.setIfInBounds i v

/-! ### Bits -/

/-- A byte with bit n set. -/
def setBit (b : Byte) (n : Nat) : Byte := b ||| (1#8 <<< n)

/-- A byte with bit n cleared. -/
def clearBit (b : Byte) (n : Nat) : Byte := b &&& ~~~(1#8 <<< n)

/-- The number of the lowest set bit: "scans bits 0→7" (R175, R180). -/
def lowestSet (b : Byte) : Option Nat := (List.range 8).find? (fun i => b.getLsbD i)

/-! ### Updates of the state, one chip each -/

/-- The state with another InterruptController. -/
def State.setPic (s : State) (x : Pic) : State := { s with pic := x }
/-- The state with another DMAController. -/
def State.setDma (s : State) (x : Dma) : State := { s with dma := x }
/-- The state with another IntervalTimer. -/
def State.setPit (s : State) (x : Pit) : State := { s with pit := x }
/-- The state with another ParallelInterface. -/
def State.setPpi (s : State) (x : Ppi) : State := { s with ppi := x }
/-- The state with another registered CRTController. -/
def State.setCrtc (s : State) (x : Crtc) : State := { s with crtc := x }
/-- The state with another EGAController. -/
def State.setEga (s : State) (x : Ega) : State := { s with ega := x }
/-- The state with another FloppyController. -/
def State.setFdc (s : State) (x : Fdc) : State := { s with fdc := x }
/-- The state with another ExpandedMemory. -/
def State.setEms (s : State) (x : Ems) : State := { s with ems := x }
/-- The state with other operations still to be performed. -/
def State.setRequests (s : State) (x : List Request) : State := { s with requests := x }
/-- The state with another result returned. -/
def State.setResult (s : State) (x : Result) : State := { s with result := x }
/-- The state with n more free values taken. -/
def State.tookDraws (s : State) (n : Nat) : State := { s with draws := s.draws + n }

/-- The part of the state that names a request (R135). -/
def State.ctx (s : State) : Ctx := { cfg := s.cfg, icwStep := s.pic.icwStep }

/-! ### How an operation ends -/

/-- The three outcomes of an operation. -/
abbrev Res := Host.Outcome State Fault Refusal

/-- The operation ends and returns nothing. -/
def done (s : State) : Res := .next (s.setResult .none)

/-- The operation ends and returns a byte. -/
def answer (v : Byte) (s : State) : Res := .next (s.setResult (.byte v))

/-- The operation ends and returns a bool. -/
def answerFlag (b : Bool) (s : State) : Res := .next (s.setResult (.flag b))

/-- The operation ends and returns `draw(u8)` (R11): a free value (log 4). -/
def answerDraw (s : State) : Res := answer (Config.draw s.draws) (s.tookDraws 1)

/-- `raise HardwareProtocolViolation` (R450, R452): the run halts, in the state before the operation. This is the one
place where the block's fault is taken; the spec gives it no handler and no return. -/
def violation (cause : Violation) : Res := .fault (.hardwareProtocolViolation cause)

/-- The operation that performs the first outcome and then goes on with its state. -/
def Res.andThen (r : Res) (f : State → Res) : Res :=
  match r with
  | .next s => f s
  | .fault e => .fault e
  | .refused e => .refused e

/-! ### Interrupt requests, entry and end of service -/

/-- `callIRQ(line)` (R172). -/
def Pic.callIrq (p : Pic) (line : Nat) : Pic := { p with irr := setBit p.irr line }

/-- `clearIRQ(line)` (R173). -/
def Pic.clearIrq (p : Pic) (line : Nat) : Pic := { p with irr := clearBit p.irr line }

/-- The lines that are requested and not masked (R175). -/
def Pic.pending (p : Pic) : Byte := p.irr &&& ~~~p.imr

/-- Entry into interrupt service, `nextInt()` (R176, R458): the vector returned, and the controller after. -/
def Pic.nextInt (p : Pic) : Byte × Pic :=
  match lowestSet p.pending with
  | none => (0, p)
  | some n => (bankRead p.icw 1 + BitVec.ofNat 8 n, { p with irr := clearBit p.irr n, isr := setBit p.isr n })

/-- End of service, the End-Of-Interrupt (R180, R459). -/
def Pic.eoi (p : Pic) : Pic :=
  match lowestSet p.isr with
  | none => p
  | some n => { p with isr := clearBit p.isr n }

/-- A chip raises a line of the InterruptController (R455). -/
def State.raiseLine (s : State) (line : Nat) : State := s.setPic (s.pic.callIrq line)

/-- A chip clears a line of the InterruptController (R455). -/
def State.dropLine (s : State) (line : Nat) : State := s.setPic (s.pic.clearIrq line)

/-- The CRTController that port accesses of the CRTC ranges reach: the registered one, or the one the EGAController wraps
(R157, R344). -/
def State.liveCrtc (s : State) : Crtc := if s.cfg.hasEga then s.ega.crtc else s.crtc

/-- The state with another CRTController where `liveCrtc` finds it. -/
def State.setLiveCrtc (s : State) (x : Crtc) : State :=
  if s.cfg.hasEga then s.setEga { s.ega with crtc := x } else s.setCrtc x

end Sys2Proof.Machine
end

