-- ==== Sys2Proof/Machine/Operands.lean ====
section
/-! DEFINITION. How an operation finds what it acts on: DMA channels, timer counters and their control fields, floppy
drives, the EMS translation, the place of a byte in the EGA planes, and the parameters of the configuration that are
functions (R28, R114, R286, R346, R347, R350, R389, R434). -/

namespace Sys2Proof.Machine

/-! ### DMAController -/

/-- A channel (R211). -/
def Dma.chan (d : Dma) (ch : BitVec 2) : Channel := d.ch[ch.toNat]'ch.isLt

/-- The controller with one channel replaced. -/
def Dma.setChan (d : Dma) (ch : BitVec 2) (x : Channel) : Dma := { d with ch := d.ch.set ch.toNat x ch.isLt }

/-- The register of a channel that a port reaches: the count of an odd port, the address of an even one (R211). -/
def Channel.register (c : Channel) (count : Bool) : Word16 := if count then c.count else c.address

/-- A channel with that register replaced. -/
def Channel.setRegister (c : Channel) (count : Bool) (r : Word16) : Channel :=
  if count then { c with count := r } else { c with address := r }

/-- The low byte of a 16-bit register (R85). -/
def lowByte (r : Word16) : Byte := r.extractLsb' 0 8

/-- The high byte of a 16-bit register (R85). -/
def highByte (r : Word16) : Byte := r.extractLsb' 8 8

/-- A 16-bit register with its low byte replaced (R85). -/
def withLowByte (r : Word16) (v : Byte) : Word16 := highByte r ++ v

/-- A 16-bit register with its high byte replaced (R85). -/
def withHighByte (r : Word16) (v : Byte) : Word16 := v ++ lowByte r

/-! ### IntervalTimer -/

/-- The access formats of a counter (R28): `unset` is 0, possible only before the first control word. -/
inductive Format where
  | unset
  | lsb
  | msb
  | lsbMsb
deriving DecidableEq, Repr

/-- The modes of a counter (R28). -/
inductive Mode where
  | m0
  | m1
  | m2
  | m3
  | m4
  | m5
deriving DecidableEq, Repr

/-- `fmt = control[5:4]` (R28). -/
def Counter.format (c : Counter) : Format :=
  let f := c.control.extractLsb' 4 2
  if f = 0 then .unset else if f = 1 then .lsb else if f = 2 then .msb else .lsbMsb

/-- `mode`, from `control[3:1]`: 6 is mode 2 and 7 is mode 3 (R28). -/
def Counter.mode (c : Counter) : Mode :=
  let m := c.control.extractLsb' 1 3
  if m = 0 then .m0 else if m = 1 then .m1 else if m = 2 ∨ m = 6 then .m2 else if m = 3 ∨ m = 7 then .m3
  else if m = 4 then .m4 else .m5

/-- A counter. -/
def Pit.counter (p : Pit) (k : Fin 3) : Counter := p.c[k.val]'k.isLt

/-- The timer with one counter replaced. -/
def Pit.setCounter (p : Pit) (k : Fin 3) (x : Counter) : Pit := { p with c := p.c.set k.val x k.isLt }

/-! ### ParallelInterface -/

/-- P_PPI_PORTC (R286): the configuration's function of port B, the switches and the clock bit. -/
def portCByte (cfg : Config) (portB : Byte) (clkBit : Bool) : Byte :=
  match cfg.ppiPortC with
  | .pcxt =>
    let half := if portB.getLsbD 3 then (cfg.ppiSw >>> 4) &&& 0x0F else cfg.ppiSw &&& 0x0F
    if clkBit then half ||| 0x20 else half
  | .free => Config.freePortC portB cfg.ppiSw clkBit

/-! ### FloppyController -/

/-- The drive a drive byte addresses: its bits 1:0 (R131, R389). -/
def driveOf (b : Byte) : BitVec 2 := b.extractLsb' 0 2

/-- A drive. -/
def Fdc.driveAt (f : Fdc) (d : BitVec 2) : Drive := f.drive[d.toNat]'d.isLt

/-- The controller with one drive replaced. -/
def Fdc.setDrive (f : Fdc) (d : BitVec 2) (x : Drive) : Fdc := { f with drive := f.drive.set d.toNat x d.isLt }

/-- P_FDC_PRESENT of a drive (R396). -/
def drivePresent (cfg : Config) (d : BitVec 2) : Bool := cfg.fdcPresent[d.toNat]'d.isLt

/-! ### ExpandedMemory -/

/-- The sub-window an offset in the window lies in: `(frameOffset >> 14) & 3` (R434). -/
def frameSub (off : Nat) : BitVec 2 := BitVec.ofNat 2 (off >>> 14)

/-- The page selector of a sub-window. -/
def Ems.selector (e : Ems) (sub : BitVec 2) : Byte := e.sel[sub.toNat]'sub.isLt

/-- The page a selector names: with P_EMS_OOB = mask its low seven bits, else the whole byte (R434, R436). -/
def emsPage (cfg : Config) (sel : Byte) : Nat :=
  match cfg.emsOob with
  | .fault => sel.toNat
  | .mask => (sel &&& 0x7F).toNat

/-- Translate (R434): the store offset of an address in the window, exact. -/
def Ems.translate (e : Ems) (cfg : Config) (a : Addr) : Nat :=
  let frameOffset := a.toNat - cfg.emsBase
  emsPage cfg (e.selector (frameSub frameOffset)) * 16384 + frameOffset % 16384

/-- The number of bytes of the EMS store: 2 MB (R37). -/
def emsStoreSize : Nat := 2097152

/-! ### EGAController -/

/-- P_EGA_CHAIN (R346). -/
def chained (cfg : Config) (gfx : Vector Byte 9) : Bool :=
  match cfg.egaChain with
  | .registerBit reg bit => (bankRead gfx reg.val).getLsbD bit.val
  | .free => Config.freeChain gfx

/-- P_EGA_WRITE_CLASS (R347). -/
def writeClass (cfg : Config) (seq : Vector Byte 6) : Option WriteClass :=
  match cfg.egaWriteClass with
  | .absent => none
  | .always c => some c
  | .free => some (Config.freeWriteClass seq)

/-- P_EGA_READ_PLANE (R350). -/
def readPlane (cfg : Config) (gfx : Vector Byte 9) : BitVec 2 :=
  match cfg.egaReadPlane with
  | .readMapSelect => (bankRead gfx 4).extractLsb' 0 2
  | .free => Config.freeReadPlane gfx

/-- The cell of a plane an offset reaches: `off mod P_EGA_PLANE_SIZE` (R345). -/
def planeCell (cfg : Config) (off : Word16) : Nat := off.toNat % cfg.egaPlaneSize

/-- The plane the address parity selects: plane `b + (off & 1)`, b being 2 if `high`, else 0 (R346, R347). -/
def parityPlane (high : Bool) (off : Word16) : BitVec 2 := BitVec.ofBool high ++ BitVec.ofBool (off.getLsbD 0)

/-- A plane. -/
def Ega.plane (e : Ega) (p : BitVec 2) : Memory := e.vram[p.toNat]'p.isLt

/-- The controller with one byte of one plane written (R330: a byte is stored as it is, in one plane). -/
def Ega.writePlane (e : Ega) (p : BitVec 2) (cell : Nat) (v : Byte) : Ega :=
  { e with vram := e.vram.set p.toNat ((e.plane p).write cell v) p.isLt }

end Sys2Proof.Machine
end

