-- ==== Sys2Proof/Machine/Flags.lean ====
section
/-! DEFINITION. The status bytes software reads (R46): what each is computed from. -/

namespace Sys2Proof.Machine

/-- IN 0x20: the in-service or the request register, as last selected (R123, R185). -/
def Pic.statusByte (p : Pic) : Byte := if p.readIsr then p.isr else p.irr

/-- `hasInt()` (R174). -/
def Pic.hasInt (p : Pic) : Bool := p.pending != 0

/-- IN 0x08: bit i is 1 iff channel i's count is 0xFFFF (R124, R214). -/
def Dma.statusByte (d : Dma) : Byte :=
  0#4 ++ BitVec.ofBool (d.ch[3].count == 0xFFFF) ++ BitVec.ofBool (d.ch[2].count == 0xFFFF)
    ++ BitVec.ofBool (d.ch[1].count == 0xFFFF) ++ BitVec.ofBool (d.ch[0].count == 0xFFFF)

/-- The retrace pattern of a phase: 9, 0, 8, 1 (R127, R316). -/
def retracePattern (phase : BitVec 2) : Byte :=
  if phase = 0 then 9 else if phase = 1 then 0 else if phase = 2 then 8 else 1

/-- A status read of the CRTController: the pattern, and the phase advanced (R316). -/
def Crtc.readStatus (c : Crtc) : Byte × Crtc :=
  (retracePattern c.retracePhase, { c with retracePhase := c.retracePhase + 1 })

/-- A status read of the EGAController: the script while it lasts, then the wrapped CRTController's cycle (R341). -/
def Ega.readStatus (e : Ega) (cfg : Config) : Byte × Ega :=
  match cfg.egaScript[e.test]? with
  | some b => (b, { e with test := e.test + 1 })
  | none => (e.crtc.readStatus.1, { e with crtc := e.crtc.readStatus.2 })

/-- The status of the FloppyController while a result is unread (R129, R384). -/
def fdcResultStatus (cfg : Config) : Byte := cfg.fdcMsrIdle ||| cfg.fdcMsrResult

/-- The result code of a RECALIBRATE or SEEK that ends on a cylinder: seek-end, and track-0 on cylinder 0 (R390, R392). -/
def seekResult (cfg : Config) (cylinder : Nat) : Byte :=
  if cylinder = 0 then cfg.fdcStSeekEnd ||| cfg.fdcStTrack0 else cfg.fdcStSeekEnd

/-- The output line that a completed load sets: true in modes 2 and 3 (R237). -/
def loadOutput (m : Mode) : Bool := m = .m2 || m = .m3

end Sys2Proof.Machine
end

