-- ==== Sys2Proof/Machine/Crtc.lean ====
section
/-! DEFINITION. CRTController (45_crtc_6845.md): the meanings of its operations. CRTC_WRIDX, CRTC_WRDATA, CRTC_RDDATA
and CRTC_RDSTAT are the registered CRTController's, of a machine without the EGA; the others reach the CRTController the
machine has (R344). -/

namespace Sys2Proof.Machine

/-- CRTC_WRIDX (R312). -/
def execCrtcWridx (_p : Word16) (v : Byte) (s : State) : Res :=
  if 0x12 ≤ v.toNat then violation .crtcIndex else done (s.setCrtc { s.crtc with index := v })

/-- CRTC_WRDATA (R313). -/
def execCrtcWrdata (_p : Word16) (v : Byte) (s : State) : Res :=
  done (s.setCrtc { s.crtc with reg := bankWrite s.crtc.reg s.crtc.index.toNat v })

/-- CRTC_RDDATA (R314). -/
def execCrtcRddata (_p : Word16) (s : State) : Res := answer (bankRead s.crtc.reg s.crtc.index.toNat) s

/-- CRTC_RDIDX (R315): a draw. -/
def execCrtcRdidx (_p : Word16) (s : State) : Res := answerDraw s

/-- CRTC_RDSTAT (R316). -/
def execCrtcRdstat (_p : Word16) (s : State) : Res := answer s.crtc.readStatus.1 (s.setCrtc s.crtc.readStatus.2)

/-- CRTC_WRSTAT (R317): accepted, no state of the block changes. -/
def execCrtcWrstat (_p : Word16) (_v : Byte) (s : State) : Res := done s

/-- CRTC_BADPORT (R318): the fatal error, on every path. -/
def execCrtcBadport (_p : Word16) (_acc : PortAccess) (_s : State) : Res := violation .crtcPort

/-- CRTC_GETREG (R319). -/
def execCrtcGetreg (i : Word16) (s : State) : Res :=
  if i.toNat < 18 then answer (bankRead s.liveCrtc.reg i.toNat) s else .refused .registerOutOfRange

end Sys2Proof.Machine
end

