-- ==== Sys2Proof/Machine/Dma.lean ====
section
/-! DEFINITION. DMAController (42_dma_8237.md): the meanings of its operations. -/

namespace Sys2Proof.Machine

/-- A byte written to a channel's register: the low half, then the high half, by the channel's toggle (R212). -/
def Channel.writeByte (c : Channel) (count : Bool) (v : Byte) : Channel :=
  if c.toggle then { c.setRegister count (withHighByte (c.register count) v) with toggle := false }
  else { c.setRegister count (withLowByte (c.register count) v) with toggle := true }

/-- The byte that a read of a channel's register returns (R213). -/
def Channel.readByte (c : Channel) (count : Bool) : Byte :=
  if c.toggle then highByte (c.register count) else lowByte (c.register count)

/-- A write at a channel's address or count port (R212). -/
def dmaWrite (ch : BitVec 2) (count : Bool) (v : Byte) (s : State) : Res :=
  done (s.setDma (s.dma.setChan ch ((s.dma.chan ch).writeByte count v)))

/-- A read at a channel's address or count port: the toggle flips (R213). -/
def dmaRead (ch : BitVec 2) (count : Bool) (s : State) : Res :=
  let c := s.dma.chan ch
  answer (c.readByte count) (s.setDma (s.dma.setChan ch { c with toggle := !c.toggle }))

/-- DMA_WR_ADDR (R212). -/
def execDmaWrAddr (ch : BitVec 2) (v : Byte) (s : State) : Res := dmaWrite ch false v s

/-- DMA_WR_CNT (R212). -/
def execDmaWrCnt (ch : BitVec 2) (v : Byte) (s : State) : Res := dmaWrite ch true v s

/-- DMA_RD_ADDR (R213). -/
def execDmaRdAddr (ch : BitVec 2) (s : State) : Res := dmaRead ch false s

/-- DMA_RD_CNT (R213). -/
def execDmaRdCnt (ch : BitVec 2) (s : State) : Res := dmaRead ch true s

/-- DMA_RDSTAT (R214). -/
def execDmaRdstat (s : State) : Res := answer s.dma.statusByte s

/-- DMA_WR08 (R215): accepted, no state of the block changes. -/
def execDmaWr08 (_v : Byte) (s : State) : Res := done s

end Sys2Proof.Machine
end

