-- ==== Sys2Proof/Machine/Ega.lean ====
section
/-! DEFINITION. EGAController (46_ega.md): the meanings of its operations. -/

namespace Sys2Proof.Machine

/-! ### Ports -/

/-- EGA_WRIDX (R332, R333): the limit is 0x18. -/
def execEgaWridx (_p : Word16) (v : Byte) (s : State) : Res :=
  if 0x18 < v.toNat then violation .egaIndex
  else done (s.setEga { s.ega with crtc := { s.ega.crtc with index := v } })

/-- EGA_WRDATA (R334): registers 0 to 0x11 are the wrapped CRTController's, 0x12 to 0x18 the chip's own. -/
def execEgaWrdata (_p : Word16) (v : Byte) (s : State) : Res :=
  let i := s.ega.crtc.index.toNat
  if i ≤ 0x11 then done (s.setEga { s.ega with crtc := { s.ega.crtc with reg := bankWrite s.ega.crtc.reg i v } })
  else done (s.setEga { s.ega with reg := bankWrite s.ega.reg (i - 0x12) v })

/-- EGA_RDDATA (R335). -/
def execEgaRddata (_p : Word16) (s : State) : Res :=
  let i := s.ega.crtc.index.toNat
  if i ≤ 0x11 then answer (bankRead s.ega.crtc.reg i) s else answer (bankRead s.ega.reg (i - 0x12)) s

/-- EGA_WRSEQIDX (R336). -/
def execEgaWrseqidx (v : Byte) (s : State) : Res :=
  if 5 < v.toNat then violation .sequencerIndex else done (s.setEga { s.ega with seqIndex := v })

/-- EGA_WRSEQ (R337). -/
def execEgaWrseq (v : Byte) (s : State) : Res :=
  done (s.setEga { s.ega with seq := bankWrite s.ega.seq s.ega.seqIndex.toNat v })

/-- EGA_RDSEQ (R337). -/
def execEgaRdseq (s : State) : Res := answer (bankRead s.ega.seq s.ega.seqIndex.toNat) s

/-- EGA_WRGFXIDX (R338). -/
def execEgaWrgfxidx (v : Byte) (s : State) : Res :=
  if 8 < v.toNat then violation .graphicsIndex else done (s.setEga { s.ega with gfxIndex := v })

/-- EGA_WRGFX (R339). -/
def execEgaWrgfx (v : Byte) (s : State) : Res :=
  done (s.setEga { s.ega with gfx := bankWrite s.ega.gfx s.ega.gfxIndex.toNat v })

/-- EGA_RDGFX (R339). -/
def execEgaRdgfx (s : State) : Res := answer (bankRead s.ega.gfx s.ega.gfxIndex.toNat) s

/-- EGA_WR3C2 (R340): accepted, no state of the block changes. -/
def execEgaWr3c2 (_v : Byte) (s : State) : Res := done s

/-- EGA_RD3C2 (R340): a draw. -/
def execEgaRd3c2 (s : State) : Res := answerDraw s

/-- EGA_RDSTAT (R341). -/
def execEgaRdstat (_p : Word16) (s : State) : Res :=
  answer (s.ega.readStatus s.cfg).1 (s.setEga (s.ega.readStatus s.cfg).2)

/-- EGA_RDIDX (R342): a draw. -/
def execEgaRdidx (_p : Word16) (s : State) : Res := answerDraw s

/-- What `reset()` leaves: the EGA-owned fields 0, the wrapped CRTController and the planes as they were (R343). -/
def Ega.reset (e : Ega) : Ega :=
  { e with reg := Vector.replicate 7 0, seq := Vector.replicate 6 0, gfx := Vector.replicate 9 0, test := 0,
           seqIndex := 0, gfxIndex := 0, rr := 0, lastMode := 0 }

/-- EGA_RESET (R343): refused where the machine has no EGAController (log 25). -/
def execEgaReset (s : State) : Res := if s.cfg.hasEga then done (s.setEga s.ega.reset) else .refused .noEga

/-! ### The graphics window -/

/-- ModeCheck: a new video-mode byte resets the rotation index (R349). -/
def Ega.modeCheck (e : Ega) (m : Byte) : Ega := if m ≠ e.lastMode then { e with rr := 0, lastMode := m } else e

/-- A write of the round-robin class, under a video-mode byte m (R347, R349). -/
def Ega.writeRoundRobin (e : Ega) (cell : Nat) (v m : Byte) : Ega :=
  let e := e.modeCheck m
  { e.writePlane e.rr cell v with rr := e.rr + 1 }

/-- What a write outside the chained layout does, by its class (R347). The system-memory byte the round-robin class looks
at is a free value (R349, log 5). -/
def State.writeByClass (s : State) (c : WriteClass) (off : Word16) (v : Byte) : State :=
  let cell := planeCell s.cfg off
  match c with
  | .single p => s.setEga (s.ega.writePlane p cell v)
  | .oddEven high => s.setEga (s.ega.writePlane (parityPlane high off) cell v)
  | .roundRobin =>
    (s.setEga (s.ega.writeRoundRobin cell v (Config.hostMem s.cfg.egaModeByteAddr s.draws))).tookDraws 1

/-- EGA_MEMW (R346, R347): refused where the configuration supplies no write class. -/
def execEgaMemw (off : Word16) (v : Byte) (s : State) : Res :=
  if chained s.cfg s.ega.gfx then done (s.setEga (s.ega.writePlane (parityPlane false off) (planeCell s.cfg off) v))
  else
    match writeClass s.cfg s.ega.seq with
    | none => .refused .noWriteClass
    | some c => done (s.writeByClass c off v)

/-- The plane a read of the window looks at (R346, R350). -/
def windowReadPlane (cfg : Config) (e : Ega) (off : Word16) : BitVec 2 :=
  if chained cfg e.gfx then parityPlane false off else readPlane cfg e.gfx

/-- EGA_MEMR (R346, R350). -/
def execEgaMemr (off : Word16) (s : State) : Res :=
  answer ((s.ega.plane (windowReadPlane s.cfg s.ega off)).read (planeCell s.cfg off)) s

end Sys2Proof.Machine
end

