-- ==== Sys2Proof/Machine/Ems.lean ====
section
/-! DEFINITION. ExpandedMemory (48_ems.md): the meanings of its operations, and byte accesses of memory outside the two
regions (R158). -/

namespace Sys2Proof.Machine

/-- EMS_WRSEL (R431). -/
def execEmsWrsel (sub : BitVec 2) (v : Byte) (s : State) : Res :=
  done (s.setEms { s.ems with sel := s.ems.sel.set sub.toNat v sub.isLt })

/-- EMS_RDSEL (R432). -/
def execEmsRdsel (_sub : BitVec 2) (s : State) : Res := answer 0xFF s

/-- EMS_MEMR (R434, R435, R436). An address outside the window is memory outside the block (R158, log 21). -/
def execEmsMemr (a : Addr) (s : State) : Res :=
  if inEmsWindow s.cfg a then
    let phys := s.ems.translate s.cfg a
    if phys < emsStoreSize then answer (s.ems.store.read phys) s else violation .emsSelector
  else answerDraw s

/-- EMS_MEMW (R434, R436, R437). An address outside the window is memory outside the block (R158, log 21). -/
def execEmsMemw (a : Addr) (v : Byte) (s : State) : Res :=
  if inEmsWindow s.cfg a then
    let phys := s.ems.translate s.cfg a
    if phys < emsStoreSize then done (s.setEms { s.ems with store := s.ems.store.write phys v })
    else violation .emsSelector
  else done s

end Sys2Proof.Machine
end

