-- ==== Sys2Proof/Machine/Fdc.lean ====
section
/-! DEFINITION. FloppyController (47_fdc_8272.md): the meanings of its ports and commands. -/

namespace Sys2Proof.Machine

/-! ### Init() and the ports beside the data port -/

/-- What Init() does to a drive (R395). -/
def Drive.reinitialised (d : Drive) (cfg : Config) : Drive := { d with resultCode := cfg.fdcResetResult }

/-- Init() (R395). -/
def Fdc.init (f : Fdc) (cfg : Config) : Fdc :=
  { f with status := cfg.fdcMsrIdle, buf := Vector.replicate 9 0, wr := 0, rd := 0, currentDrive := 0,
           drive := #v[(f.driveAt 0).reinitialised cfg, (f.driveAt 1).reinitialised cfg,
                       (f.driveAt 2).reinitialised cfg, (f.driveAt 3).reinitialised cfg] }

/-- FDC_INIT (R395). -/
def execFdcInit (s : State) : Res := done (s.setFdc (s.fdc.init s.cfg))

/-- FDC_WRDOR (R382): bit 2 clear re-initialises, its rise raises line 6. -/
def execFdcWrdor (v : Byte) (s : State) : Res :=
  let f := { s.fdc with outputReg := v }
  let s' := s.setFdc (if v.getLsbD 2 then f else f.init s.cfg)
  done (if !s.fdc.outputReg.getLsbD 2 && v.getLsbD 2 then s'.raiseLine 6 else s')

/-- FDC_RDDOR (R383). -/
def execFdcRddor (s : State) : Res := answer s.fdc.outputReg s

/-- FDC_RDMSR (R384). -/
def execFdcRdmsr (s : State) : Res := answer s.fdc.status s

/-- FDC_WRCCR (R397). -/
def execFdcWrccr (v : Byte) (s : State) : Res := done (s.setFdc { s.fdc with controlReg := v })

/-- FDC_RDCCR (R397). -/
def execFdcRdccr (s : State) : Res := answer s.fdc.controlReg s

/-- FDC_OTHER (R398): a write changes nothing, a read is a draw. -/
def execFdcOther (_p : Word16) (acc : PortAccess) (s : State) : Res :=
  match acc with
  | .read => answerDraw s
  | .write _ => done s

/-! ### Execute -/

/-- The return to IDLE of a command without a result (R390, R392, R393). -/
def Fdc.toIdle (f : Fdc) : Fdc := { f with wr := 0, rd := 0 }

/-- The drive of RECALIBRATE and SEEK: bits 1:0 of the second byte (R389). -/
def Fdc.addressed (f : Fdc) : BitVec 2 := driveOf (bankRead f.buf 1)

/-- A drive with the head on a cylinder, the target remembered and the result code set (R390, R392). -/
def Drive.arrive (d : Drive) (cfg : Config) (cylinder : Nat) (target : Byte) : Drive :=
  { d with cylinderPos := cylinder, seekTarget := target, resultCode := seekResult cfg cylinder }

/-- The cylinder a SEEK to `req` ends on: the position moved by the difference of targets, clamped (R392). -/
def Drive.seekCylinder (d : Drive) (req : Byte) : Nat :=
  let c : Int := (d.cylinderPos : Int) + ((req.toNat : Int) - (d.seekTarget.toNat : Int))
  (max 0 (min c ((d.cylinders : Int) - 1))).toNat

/-- RECALIBRATE on the controller (R390). -/
def Fdc.recalibrate (f : Fdc) (cfg : Config) : Fdc :=
  let d := f.addressed
  { f.setDrive d ((f.driveAt d).arrive cfg 0 0) with currentDrive := d }.toIdle

/-- SENSE_INTERRUPT on the controller (R391). -/
def Fdc.senseInterrupt (f : Fdc) (cfg : Config) : Fdc :=
  let d := f.driveAt f.currentDrive
  { f with
    buf := bankWrite (bankWrite f.buf 0 d.resultCode) 1 (BitVec.ofNat 8 d.cylinderPos)
    wr := 2
    rd := 0
    status := fdcResultStatus cfg
    currentDrive := f.currentDrive + 1 }

/-- SEEK on the controller (R392). -/
def Fdc.seek (f : Fdc) (cfg : Config) : Fdc :=
  let d := f.addressed
  let req := bankRead f.buf 2
  { f.setDrive d ((f.driveAt d).arrive cfg ((f.driveAt d).seekCylinder req) req) with currentDrive := d }.toIdle

/-- Execute (R388), on a state whose command buffer holds a whole command. RECALIBRATE and SEEK raise line 6 (R399), and
are refused where the drive they address is absent (R396). -/
def fdcExecute (s : State) : Res :=
  let op := fdcOpcode (bankRead s.fdc.buf 0)
  if op = 0x07 then
    if drivePresent s.cfg s.fdc.addressed then done ((s.setFdc (s.fdc.recalibrate s.cfg)).raiseLine 6)
    else .refused .driveAbsent
  else if op = 0x08 then done (s.setFdc (s.fdc.senseInterrupt s.cfg))
  else if op = 0x0F then
    if drivePresent s.cfg s.fdc.addressed then done ((s.setFdc (s.fdc.seek s.cfg)).raiseLine 6)
    else .refused .driveAbsent
  else done (s.setFdc s.fdc.toIdle)

/-! ### The data port -/

/-- A byte appended to the command buffer (R385). -/
def Fdc.append (f : Fdc) (v : Byte) : Fdc := { f with buf := bankWrite f.buf f.wr v, wr := f.wr + 1 }

/-- A byte written to the data port: dropped while a result is unread, else appended, and the command executed once its
length is reached (R385). -/
def fdcDataWrite (v : Byte) (s : State) : Res :=
  if s.fdc.status ≠ s.cfg.fdcMsrIdle then done s
  else
    let s' := s.setFdc (s.fdc.append v)
    if cbReq s.cfg (fdcOpcode (bankRead s'.fdc.buf 0)) ≤ s'.fdc.wr then fdcExecute s' else done s'

/-- FDC_WRDATA (R385). -/
def execFdcWrdata (v : Byte) (s : State) : Res := fdcDataWrite v s

/-- The controller after a result byte is read: the last one ends the result phase (R394). -/
def Fdc.afterRead (f : Fdc) (cfg : Config) : Fdc :=
  if f.rd + 1 = f.wr then { f.toIdle with status := cfg.fdcMsrIdle } else { f with rd := f.rd + 1 }

/-- FDC_RDDATA (R394): a draw when no result is waiting. -/
def execFdcRddata (s : State) : Res :=
  if s.fdc.status = s.cfg.fdcMsrIdle then answerDraw s
  else answer (bankRead s.fdc.buf s.fdc.rd) (s.setFdc (s.fdc.afterRead s.cfg))

/-! ### Floppy commands: FDC_CMD b0, b1, ... is OUT 0x3F5, b0 ; OUT 0x3F5, b1 ; ... (R140, log 22) -/

/-- The bytes written to the data port one after another. -/
def fdcCommandBytes : List Byte → State → Res
  | [], s => done s
  | b :: rest, s => (fdcDataWrite b s).andThen (fdcCommandBytes rest)

/-- FDC_READ_TRACK (R393): counted in, then dropped. -/
def execFdcReadTrack (opt : BitVec 3) (ps : List Byte) (s : State) : Res := fdcCommandBytes (fdcByte0 opt 0x02 :: ps) s

/-- FDC_SPECIFY (R393): counted in, then dropped. -/
def execFdcSpecify (opt : BitVec 3) (ps : List Byte) (s : State) : Res := fdcCommandBytes (fdcByte0 opt 0x03 :: ps) s

/-- FDC_SENSE_DRIVE_STATUS (R393): counted in, then dropped. -/
def execFdcSenseDriveStatus (opt : BitVec 3) (ps : List Byte) (s : State) : Res :=
  fdcCommandBytes (fdcByte0 opt 0x04 :: ps) s

/-- FDC_WRITE_DATA (R393): counted in, then dropped. -/
def execFdcWriteData (opt : BitVec 3) (ps : List Byte) (s : State) : Res := fdcCommandBytes (fdcByte0 opt 0x05 :: ps) s

/-- FDC_READ_DATA (R393): counted in, then dropped. -/
def execFdcReadData (opt : BitVec 3) (ps : List Byte) (s : State) : Res := fdcCommandBytes (fdcByte0 opt 0x06 :: ps) s

/-- FDC_RECALIBRATE (R390). -/
def execFdcRecalibrate (opt : BitVec 3) (drive : Byte) (s : State) : Res :=
  fdcCommandBytes [fdcByte0 opt 0x07, drive] s

/-- FDC_SENSE_INTERRUPT (R391). -/
def execFdcSenseInterrupt (opt : BitVec 3) (s : State) : Res := fdcCommandBytes [fdcByte0 opt 0x08] s

/-- FDC_WRITE_DELETED_DATA (R393): counted in, then dropped. -/
def execFdcWriteDeletedData (opt : BitVec 3) (ps : List Byte) (s : State) : Res :=
  fdcCommandBytes (fdcByte0 opt 0x09 :: ps) s

/-- FDC_READ_ID (R393): counted in, then dropped. -/
def execFdcReadId (opt : BitVec 3) (ps : List Byte) (s : State) : Res := fdcCommandBytes (fdcByte0 opt 0x0A :: ps) s

/-- FDC_READ_DELETED_DATA (R393): counted in, then dropped. -/
def execFdcReadDeletedData (opt : BitVec 3) (ps : List Byte) (s : State) : Res :=
  fdcCommandBytes (fdcByte0 opt 0x0C :: ps) s

/-- FDC_FORMAT_TRACK (R393): counted in, then dropped. -/
def execFdcFormatTrack (opt : BitVec 3) (ps : List Byte) (s : State) : Res :=
  fdcCommandBytes (fdcByte0 opt 0x0D :: ps) s

/-- FDC_SEEK (R392). -/
def execFdcSeek (opt : BitVec 3) (drive cylinder : Byte) (s : State) : Res :=
  fdcCommandBytes [fdcByte0 opt 0x0F, drive, cylinder] s

/-- FDC_SCAN_EQUAL (R393): counted in, then dropped. -/
def execFdcScanEqual (opt : BitVec 3) (ps : List Byte) (s : State) : Res := fdcCommandBytes (fdcByte0 opt 0x11 :: ps) s

/-- FDC_SCAN_LOW_OR_EQUAL (R393): counted in, then dropped. -/
def execFdcScanLowOrEqual (opt : BitVec 3) (ps : List Byte) (s : State) : Res :=
  fdcCommandBytes (fdcByte0 opt 0x19 :: ps) s

/-- FDC_SCAN_HIGH_OR_EQUAL (R393): counted in, then dropped. -/
def execFdcScanHighOrEqual (opt : BitVec 3) (ps : List Byte) (s : State) : Res :=
  fdcCommandBytes (fdcByte0 opt 0x1D :: ps) s

/-- FDC_INVALID (R393): an opcode without a name, counted in, then dropped. -/
def execFdcInvalid (b0 : Byte) (ps : List Byte) (s : State) : Res := fdcCommandBytes (b0 :: ps) s

end Sys2Proof.Machine
end

