-- ==== Sys2Proof/Machine/Pic.lean ====
section
/-! DEFINITION. InterruptController (41_pic_8259.md): the meanings of its operations. -/

namespace Sys2Proof.Machine

/-- PIC_CALLIRQ (R171, R172). -/
def execPicCallirq (line : Word16) (s : State) : Res :=
  if line.toNat < 8 then done (s.raiseLine line.toNat) else .refused .lineOutOfRange

/-- PIC_CLEARIRQ (R171, R173). -/
def execPicClearirq (line : Word16) (s : State) : Res :=
  if line.toNat < 8 then done (s.dropLine line.toNat) else .refused .lineOutOfRange

/-- PIC_HASINT (R174). -/
def execPicHasint (s : State) : Res := answerFlag s.pic.hasInt s

/-- PIC_NEXTINT (R176, R458). -/
def execPicNextint (s : State) : Res := answer s.pic.nextInt.1 (s.setPic s.pic.nextInt.2)

/-- PIC_ICW0 (R178): the initialization sequence begins or restarts. -/
def execPicIcw0 (v : Byte) (s : State) : Res :=
  done (s.setPic
    { s.pic with icw := bankWrite s.pic.icw 0 v, icwStep := 1, imr := 0, imrShadow := 0, readIsr := false })

/-- The read selection of an operation command: bit 0 selects the in-service register (R181). -/
def Pic.selectRead (p : Pic) (v : Byte) : Pic := { p with readIsr := v.getLsbD 0 }

/-- An operation command, a byte with bit 4 clear: the End-Of-Interrupt if bit 5 is set, and the read selection if the
byte meets its condition (R179). -/
def Pic.command (p : Pic) (v : Byte) : Pic :=
  let p := if v.getLsbD 5 then p.eoi else p
  if selectsRead v then p.selectRead v else p

/-- PIC_EOI (R179, R180, R459). A byte that is a read selection too does both (R179), and has this name (log 27). -/
def execPicEoi (v : Byte) (s : State) : Res := done (s.setPic (s.pic.command v))

/-- PIC_RDSEL (R179, R181). -/
def execPicRdsel (v : Byte) (s : State) : Res := done (s.setPic (s.pic.command v))

/-- PIC_OCW_NOP (R179): a command byte that meets neither condition changes nothing. -/
def execPicOcwNop (v : Byte) (s : State) : Res := done (s.setPic (s.pic.command v))

/-- PIC_RDSTAT (R185). -/
def execPicRdstat (s : State) : Res := answer s.pic.statusByte s

/-- PIC_ICWN (R182): the next initialization word; in single mode the third is skipped. -/
def execPicIcwn (v : Byte) (s : State) : Res :=
  let p := s.pic
  let single := (bankRead p.icw 0).getLsbD 1
  done (s.setPic
    { p with
      icw := bankWrite p.icw p.icwStep.toNat v
      icwStep := if p.icwStep = 1 ∧ single then 3 else p.icwStep + 1 })

/-- PIC_SETMASK (R183). -/
def execPicSetmask (v : Byte) (s : State) : Res := done (s.setPic { s.pic with imr := v, imrShadow := v })

/-- PIC_SETMASK0 (R184): the mask 0 is in force only when the queued MaskApply fires. -/
def execPicSetmask0 (s : State) : Res := done (s.setPic { s.pic with imrShadow := 0, maskApplyPending := true })

/-- PIC_RDMASK (R186). -/
def execPicRdmask (s : State) : Res := answer s.pic.imrShadow s

/-- EV_MASKAPPLY (R187), enabled only while pending (log 20). -/
def execEvMaskapply (s : State) : Res :=
  if s.pic.maskApplyPending then done (s.setPic { s.pic with imr := s.pic.imrShadow, maskApplyPending := false })
  else .refused .eventNotPending

end Sys2Proof.Machine
end

