-- ==== Sys2Proof/Machine/Pit.lean ====
section
/-! DEFINITION. IntervalTimer (43_pit_8253.md): the meanings of its operations. -/

namespace Sys2Proof.Machine

/-! ### The control port -/

/-- What a programming control word does to its counter (R232). -/
def Counter.program (c : Counter) (v : Byte) : Counter :=
  { c with control := v &&& 0x3F, readToggle := false, writeToggle := false, latched := false, enabled := false }

/-- What a latch command does to its counter: a second one before the first is read out is ignored (R233). -/
def Counter.latchCount (c : Counter) : Counter :=
  if c.latched then c else { c with latch := c.count, latched := true }

/-- The timer with the counter that a control word selects changed; select 3 names no counter (R231, R234). -/
def Pit.onSelected (p : Pit) (v : Byte) (f : Counter → Counter) : Pit :=
  match counterOf (ctlSelect v) with
  | some k => p.setCounter k (f (p.counter k))
  | none => p

/-- PIT_PROG (R232). -/
def execPitProg (v : Byte) (s : State) : Res := done (s.setPit (s.pit.onSelected v (fun c => c.program v)))

/-- PIT_LATCH (R233). -/
def execPitLatch (v : Byte) (s : State) : Res := done (s.setPit (s.pit.onSelected v Counter.latchCount))

/-- PIT_SEL3 (R234): accepted, no state of the block changes. -/
def execPitSel3 (_v : Byte) (s : State) : Res := done s

/-- PIT_RDCTL (R244): a draw. -/
def execPitRdctl (s : State) : Res := answerDraw s

/-! ### The counter ports -/

/-- LoadComplete on the counter itself (R237). -/
def Counter.loadComplete (c : Counter) : Counter :=
  { c with count := c.value, enabled := true, output := loadOutput c.mode }

/-- A byte written to a counter's data port: the counter after, and whether a load completed (R235, R245). -/
def Counter.writeByte (c : Counter) (v : Byte) : Counter × Bool :=
  match c.format with
  | .unset => (c, false)
  | .lsb => (({ c with value := 0#8 ++ v }).loadComplete, true)
  | .msb => (({ c with value := v ++ 0#8 }).loadComplete, true)
  | .lsbMsb =>
    if c.writeToggle then (({ c with value := withHighByte c.value v, writeToggle := false }).loadComplete, true)
    else ({ c with value := withLowByte c.value v, writeToggle := true }, false)

/-- PIT_WR (R235): a load of counter 0 that completes clears line 0 (R237). -/
def execPitWr (k : Fin 3) (v : Byte) (s : State) : Res :=
  let r := (s.pit.counter k).writeByte v
  let s' := s.setPit (s.pit.setCounter k r.1)
  done (if r.2 && k == 0 then s'.dropLine 0 else s')

/-- What a counter's data port returns: the latched count while there is one, else the live count (R236). -/
def Counter.readSource (c : Counter) : Word16 := if c.latched then c.latch else c.count

/-- The counter after a read of its data port (R236, R245). -/
def Counter.afterRead (c : Counter) : Counter :=
  match c.format with
  | .unset => c
  | .lsb => { c with latched := false }
  | .msb => { c with latched := false }
  | .lsbMsb =>
    if c.readToggle then { c with readToggle := false, latched := false } else { c with readToggle := true }

/-- The byte a read of a programmed counter's data port returns (R236). -/
def Counter.readByte (c : Counter) : Byte :=
  match c.format with
  | .unset => 0
  | .lsb => lowByte c.readSource
  | .msb => highByte c.readSource
  | .lsbMsb => if c.readToggle then highByte c.readSource else lowByte c.readSource

/-- PIT_RD (R236): a draw while the counter's control word was never written (R245). -/
def execPitRd (k : Fin 3) (s : State) : Res :=
  let c := s.pit.counter k
  if c.format = .unset then answerDraw s
  else answer c.readByte (s.setPit (s.pit.setCounter k c.afterRead))

/-! ### tick() -/

/-- SetOutput on the counter itself, and whether its output rose (R238). -/
def Counter.setOutput (c : Counter) (b : Bool) : Counter × Bool := ({ c with output := b }, !c.output && b)

/-- A tick in mode 0 (R240). -/
def Counter.tick0 (c : Counter) : Counter × Bool :=
  let c := { c with count := c.count - 1 }
  if c.count = 0 then
    let r := c.setOutput true
    ({ r.1 with enabled := false }, r.2)
  else (c, false)

/-- A tick in mode 2 (R241). -/
def Counter.tick2 (c : Counter) : Counter × Bool :=
  if !c.output then c.setOutput true
  else
    let c := { c with count := c.count - 1 }
    if c.count = 1 then ({ c with count := c.value }).setOutput false else (c, false)

/-- How much a tick in mode 3 takes off the count (R242). -/
def Counter.step3 (c : Counter) : Word16 :=
  if !c.count.getLsbD 0 then 2 else if c.output then 1 else 3

/-- A tick in mode 3 (R242). -/
def Counter.tick3 (c : Counter) : Counter × Bool :=
  let c := { c with count := c.count - c.step3 }
  if c.count = 0 then ({ c with count := c.value }).setOutput (!c.output) else (c, false)

/-- A tick of one counter: the counter after, and whether its output rose (R239; R243 for modes 1, 4 and 5). -/
def Counter.tick (c : Counter) : Counter × Bool :=
  if !c.enabled then (c, false)
  else
    match c.mode with
    | .m0 => c.tick0
    | .m2 => c.tick2
    | .m3 => c.tick3
    | .m1 => (c, false)
    | .m4 => (c, false)
    | .m5 => (c, false)

/-- A tick of the three counters (R239). -/
def Pit.tick (p : Pit) : Pit := { c := #v[(p.counter 0).tick.1, (p.counter 1).tick.1, (p.counter 2).tick.1] }

/-- PIT_TICK (R239): every counter ticks, and a rise of counter 0's output raises line 0 (R238). -/
def execPitTick (s : State) : Res :=
  let s' := s.setPit s.pit.tick
  done (if (s.pit.counter 0).tick.2 then s'.raiseLine 0 else s')

end Sys2Proof.Machine
end

