-- ==== Sys2Proof/Machine/Ppi.lean ====
section
/-! DEFINITION. ParallelInterface (44_ppi_8255.md): the meanings of its operations. -/

namespace Sys2Proof.Machine

/-- A scan code arrives: it is latched and line 1 is raised (R282). -/
def State.typeKey (s : State) (code : Word16) : State := (s.setPpi { s.ppi with scan := code }).raiseLine 1

/-- PPI_KEYTYPED (R282). -/
def execPpiKeytyped (code : Word16) (s : State) : Res := done (s.typeKey code)

/-- PPI_RDA (R283): the switches, or 0xAA once for the sentinel, or the scan code's low byte. -/
def execPpiRda (s : State) : Res :=
  if s.ppi.portB.getLsbD s.cfg.ppiSwModeBit.val then answer s.cfg.ppiSw s
  else if s.ppi.scan = 0x0FFF then answer 0xAA (s.setPpi { s.ppi with scan := 0 })
  else answer (lowByte s.ppi.scan) s

/-- PPI_RDB (R284). -/
def execPpiRdb (s : State) : Res := answer s.ppi.portB s

/-- PPI_WRB (R285): a byte with bit 6 clear queues a KbdResetInject, one with bit 7 set clears line 1. -/
def execPpiWrb (v : Byte) (s : State) : Res :=
  let queued := if v.getLsbD 6 then s.ppi.resetPending else s.ppi.resetPending + 1
  let s' := s.setPpi { s.ppi with portB := v, resetPending := queued }
  done (if v.getLsbD 7 then s'.dropLine 1 else s')

/-- The cassette-clock sub-counter after one enabled port-2 read (R286). -/
def Ppi.advanceClock (p : Ppi) (div : Nat) : Ppi :=
  if p.clk2 + 1 = div then { p with clk2 := 0, clkBit := !p.clkBit } else { p with clk2 := p.clk2 + 1 }

/-- PPI_RDC (R286): the clock advances first, while enabled. -/
def execPpiRdc (s : State) : Res :=
  let p := if s.ppi.portB.getLsbD s.cfg.ppiClkEnBit.val then s.ppi.advanceClock s.cfg.ppiClkDiv else s.ppi
  answer (portCByte s.cfg p.portB p.clkBit) (s.setPpi p)

/-- PPI_RDCTL (R287). -/
def execPpiRdctl (s : State) : Res := answer s.ppi.ctrl s

/-- PPI_WRCTL (R288). -/
def execPpiWrctl (v : Byte) (s : State) : Res := done (s.setPpi { s.ppi with ctrl := v })

/-- PPI_WRA (R289): accepted, no state of the block changes. -/
def execPpiWra (_v : Byte) (s : State) : Res := done s

/-- PPI_WRC (R290): stored in the unused slot. -/
def execPpiWrc (v : Byte) (s : State) : Res := done (s.setPpi { s.ppi with portC := v })

/-- EV_KBDRESET (R291), enabled only while pending (log 20): what keyTyped(0x0FFF) does. -/
def execEvKbdreset (s : State) : Res :=
  if 0 < s.ppi.resetPending then
    done ((s.setPpi { s.ppi with resetPending := s.ppi.resetPending - 1 }).typeKey 0x0FFF)
  else .refused .eventNotPending

end Sys2Proof.Machine
end

