-- ==== Sys2Proof/Machine/Dispatch.lean ====
section
/-! DEFINITION. One arm per operation: each calls its meaning. -/

namespace Sys2Proof.Machine

def exec (i : Instr) (s : State) : Host.Outcome State Fault Refusal :=
  match i with
  | .dmaWrAddr ch v => Sys2Proof.Machine.execDmaWrAddr ch v s
  | .dmaWrCnt ch v => Sys2Proof.Machine.execDmaWrCnt ch v s
  | .dmaRdAddr ch => Sys2Proof.Machine.execDmaRdAddr ch s
  | .dmaRdCnt ch => Sys2Proof.Machine.execDmaRdCnt ch s
  | .dmaRdstat => Sys2Proof.Machine.execDmaRdstat s
  | .dmaWr08 v => Sys2Proof.Machine.execDmaWr08 v s
  | .picIcw0 v => Sys2Proof.Machine.execPicIcw0 v s
  | .picEoi v => Sys2Proof.Machine.execPicEoi v s
  | .picRdsel v => Sys2Proof.Machine.execPicRdsel v s
  | .picOcwNop v => Sys2Proof.Machine.execPicOcwNop v s
  | .picRdstat => Sys2Proof.Machine.execPicRdstat s
  | .picIcwn v => Sys2Proof.Machine.execPicIcwn v s
  | .picSetmask v => Sys2Proof.Machine.execPicSetmask v s
  | .picSetmask0 => Sys2Proof.Machine.execPicSetmask0 s
  | .picRdmask => Sys2Proof.Machine.execPicRdmask s
  | .pitWr k v => Sys2Proof.Machine.execPitWr k v s
  | .pitRd k => Sys2Proof.Machine.execPitRd k s
  | .pitProg v => Sys2Proof.Machine.execPitProg v s
  | .pitLatch v => Sys2Proof.Machine.execPitLatch v s
  | .pitSel3 v => Sys2Proof.Machine.execPitSel3 v s
  | .pitRdctl => Sys2Proof.Machine.execPitRdctl s
  | .ppiRda => Sys2Proof.Machine.execPpiRda s
  | .ppiRdb => Sys2Proof.Machine.execPpiRdb s
  | .ppiRdc => Sys2Proof.Machine.execPpiRdc s
  | .ppiRdctl => Sys2Proof.Machine.execPpiRdctl s
  | .ppiWra v => Sys2Proof.Machine.execPpiWra v s
  | .ppiWrb v => Sys2Proof.Machine.execPpiWrb v s
  | .ppiWrc v => Sys2Proof.Machine.execPpiWrc v s
  | .ppiWrctl v => Sys2Proof.Machine.execPpiWrctl v s
  | .emsWrsel sub v => Sys2Proof.Machine.execEmsWrsel sub v s
  | .emsRdsel sub => Sys2Proof.Machine.execEmsRdsel sub s
  | .crtcWridx p v => Sys2Proof.Machine.execCrtcWridx p v s
  | .crtcWrdata p v => Sys2Proof.Machine.execCrtcWrdata p v s
  | .crtcRddata p => Sys2Proof.Machine.execCrtcRddata p s
  | .crtcRdidx p => Sys2Proof.Machine.execCrtcRdidx p s
  | .crtcRdstat p => Sys2Proof.Machine.execCrtcRdstat p s
  | .crtcWrstat p v => Sys2Proof.Machine.execCrtcWrstat p v s
  | .crtcBadport p acc => Sys2Proof.Machine.execCrtcBadport p acc s
  | .egaWridx p v => Sys2Proof.Machine.execEgaWridx p v s
  | .egaWrdata p v => Sys2Proof.Machine.execEgaWrdata p v s
  | .egaRddata p => Sys2Proof.Machine.execEgaRddata p s
  | .egaRdstat p => Sys2Proof.Machine.execEgaRdstat p s
  | .egaWrseqidx v => Sys2Proof.Machine.execEgaWrseqidx v s
  | .egaWrseq v => Sys2Proof.Machine.execEgaWrseq v s
  | .egaRdseq => Sys2Proof.Machine.execEgaRdseq s
  | .egaWrgfxidx v => Sys2Proof.Machine.execEgaWrgfxidx v s
  | .egaWrgfx v => Sys2Proof.Machine.execEgaWrgfx v s
  | .egaRdgfx => Sys2Proof.Machine.execEgaRdgfx s
  | .egaWr3c2 v => Sys2Proof.Machine.execEgaWr3c2 v s
  | .egaRd3c2 => Sys2Proof.Machine.execEgaRd3c2 s
  | .egaRdidx p => Sys2Proof.Machine.execEgaRdidx p s
  | .fdcWrdor v => Sys2Proof.Machine.execFdcWrdor v s
  | .fdcRddor => Sys2Proof.Machine.execFdcRddor s
  | .fdcRdmsr => Sys2Proof.Machine.execFdcRdmsr s
  | .fdcWrdata v => Sys2Proof.Machine.execFdcWrdata v s
  | .fdcRddata => Sys2Proof.Machine.execFdcRddata s
  | .fdcWrccr v => Sys2Proof.Machine.execFdcWrccr v s
  | .fdcRdccr => Sys2Proof.Machine.execFdcRdccr s
  | .fdcOther p acc => Sys2Proof.Machine.execFdcOther p acc s
  | .emsMemr a => Sys2Proof.Machine.execEmsMemr a s
  | .emsMemw a v => Sys2Proof.Machine.execEmsMemw a v s
  | .egaMemr off => Sys2Proof.Machine.execEgaMemr off s
  | .egaMemw off v => Sys2Proof.Machine.execEgaMemw off v s
  | .picCallirq line => Sys2Proof.Machine.execPicCallirq line s
  | .picClearirq line => Sys2Proof.Machine.execPicClearirq line s
  | .picHasint => Sys2Proof.Machine.execPicHasint s
  | .picNextint => Sys2Proof.Machine.execPicNextint s
  | .pitTick => Sys2Proof.Machine.execPitTick s
  | .ppiKeytyped code => Sys2Proof.Machine.execPpiKeytyped code s
  | .crtcGetreg n => Sys2Proof.Machine.execCrtcGetreg n s
  | .fdcInit => Sys2Proof.Machine.execFdcInit s
  | .egaReset => Sys2Proof.Machine.execEgaReset s
  | .evMaskapply => Sys2Proof.Machine.execEvMaskapply s
  | .evKbdreset => Sys2Proof.Machine.execEvKbdreset s
  | .fdcReadTrack opt ps => Sys2Proof.Machine.execFdcReadTrack opt ps s
  | .fdcSpecify opt ps => Sys2Proof.Machine.execFdcSpecify opt ps s
  | .fdcSenseDriveStatus opt ps => Sys2Proof.Machine.execFdcSenseDriveStatus opt ps s
  | .fdcWriteData opt ps => Sys2Proof.Machine.execFdcWriteData opt ps s
  | .fdcReadData opt ps => Sys2Proof.Machine.execFdcReadData opt ps s
  | .fdcRecalibrate opt drive => Sys2Proof.Machine.execFdcRecalibrate opt drive s
  | .fdcSenseInterrupt opt => Sys2Proof.Machine.execFdcSenseInterrupt opt s
  | .fdcWriteDeletedData opt ps => Sys2Proof.Machine.execFdcWriteDeletedData opt ps s
  | .fdcReadId opt ps => Sys2Proof.Machine.execFdcReadId opt ps s
  | .fdcReadDeletedData opt ps => Sys2Proof.Machine.execFdcReadDeletedData opt ps s
  | .fdcFormatTrack opt ps => Sys2Proof.Machine.execFdcFormatTrack opt ps s
  | .fdcSeek opt drive cylinder => Sys2Proof.Machine.execFdcSeek opt drive cylinder s
  | .fdcScanEqual opt ps => Sys2Proof.Machine.execFdcScanEqual opt ps s
  | .fdcScanLowOrEqual opt ps => Sys2Proof.Machine.execFdcScanLowOrEqual opt ps s
  | .fdcScanHighOrEqual opt ps => Sys2Proof.Machine.execFdcScanHighOrEqual opt ps s
  | .fdcInvalid b0 ps => Sys2Proof.Machine.execFdcInvalid b0 ps s

end Sys2Proof.Machine
end

