-- ==== Sys2Proof/Machine/Perform.lean ====
section
/-! DEFINITION. From a request to its outcome: what an access does that is no row of the opcode table, how the next
request is fetched, and how a request is placed where the next step fetches it. -/

namespace Sys2Proof.Machine

/-- A 16-bit read of memory outside the block: two free bytes (R158, log 21). -/
def answerDraw16 (s : State) : Res :=
  .next ((s.tookDraws 2).setResult (.word (Config.draw (s.draws + 1) ++ Config.draw s.draws)))

/-- What an access does. An OUT that no chip claims changes no state and such an IN is a draw (R155); so do accesses at a
port of role `ignore` (R311, R344) and of memory outside the block (R158, log 21). -/
def runAccess (a : Access) (s : State) : Res :=
  match a with
  | .instr i => exec i s
  | .unclaimedIn => answerDraw s
  | .unclaimedOut => done s
  | .ignoredIn => answerDraw s
  | .ignoredOut => done s
  | .outsideIn16 => answerDraw16 s
  | .outsideOut16 => done s
  | .reject e => .refused (.notAnOperation e)

/-- The result of a port read of width 16: the byte zero-extended (R154). -/
def Result.widen : Result → Result
  | .byte v => .word (0#8 ++ v)
  | r => r

/-- A request carried out, in a state from which it has been taken. -/
def perform (r : Request) (s : State) : Res :=
  match r with
  | .portIn16 _ => (runAccess (decode s.ctx r) s).andThen (fun t => .next (t.setResult t.result.widen))
  | _ => runAccess (decode s.ctx r) s

/-- The first of the requests still to be performed, and the state without it (log 1). -/
def nextRequest (s : State) : Option (Request × State) :=
  match s.requests with
  | [] => none
  | r :: rest => some (r, s.setRequests rest)

/-- A step while no agent acts: nothing changes (log 2). -/
def idle (s : State) : Res := .next s

/-- The state in which a delayed event can fire, for a request that fires one: the event is queued (R94, log 31). Every
other request needs no such thing. -/
def State.withEventQueued (s : State) (r : Request) : State :=
  match decode s.ctx r with
  | .instr .evMaskapply => s.setPic { s.pic with maskApplyPending := true }
  | .instr .evKbdreset => s.setPpi { s.ppi with resetPending := max 1 s.ppi.resetPending }
  | _ => s

/-- The state with a request placed first, so that the next step performs it (log 31). -/
def State.place (s : State) (r : Request) : State := (s.withEventQueued r).setRequests (r :: s.requests)

end Sys2Proof.Machine
end

