-- ==== Sys2Proof/Machine/Step.lean ====
section
/-! DEFINITION. One step: the next request of the agents is taken and performed (R8, R92). -/

namespace Sys2Proof.Machine

/-- The first request of the list is performed, atomically (R8, log 1). With none the block rests (log 2). -/
def step (s : State) : Host.Outcome State Fault Refusal :=
  match nextRequest s with
  | none => idle s
  | some (r, s') => perform r s'

/-- The state with a table row's operation placed where the next step fetches it (log 31). -/
def State.withFetchWord (s : State) (nbits w : Nat) : State := s.place (tableRequest s.cfg nbits w)

end Sys2Proof.Machine
end

