-- ==== Sys2Proof/Safety.lean ====
section
/-! DEFINITION. What statements about the block are made of: runs of several operations, the chip an operation is
performed on, what counts as an operation that does not stop, and the invariant of the reachable states. -/

namespace Sys2Proof.Machine

/-! ### Runs -/

/-- The operations performed one after another (R92). A fault or a refusal ends the run (R452). -/
def runAll : List Instr → State → Res
  | [], s => .next s
  | i :: rest, s => Res.andThen (exec i s) (runAll rest)

/-- The operation does not stop the run with the block's fault (R450). -/
def faultFree (i : Instr) (s : State) : Bool :=
  match exec i s with
  | .fault _ => false
  | .next _ => true
  | .refused _ => true

/-- The chip an operation is performed on (R112, R113, R130). -/
def chipOf : Instr → Chip
  | .dmaWrAddr _ _ => .dma
  | .dmaWrCnt _ _ => .dma
  | .dmaRdAddr _ => .dma
  | .dmaRdCnt _ => .dma
  | .dmaRdstat => .dma
  | .dmaWr08 _ => .dma
  | .picIcw0 _ => .pic
  | .picEoi _ => .pic
  | .picRdsel _ => .pic
  | .picOcwNop _ => .pic
  | .picRdstat => .pic
  | .picIcwn _ => .pic
  | .picSetmask _ => .pic
  | .picSetmask0 => .pic
  | .picRdmask => .pic
  | .pitWr _ _ => .pit
  | .pitRd _ => .pit
  | .pitProg _ => .pit
  | .pitLatch _ => .pit
  | .pitSel3 _ => .pit
  | .pitRdctl => .pit
  | .ppiRda => .ppi
  | .ppiRdb => .ppi
  | .ppiRdc => .ppi
  | .ppiRdctl => .ppi
  | .ppiWra _ => .ppi
  | .ppiWrb _ => .ppi
  | .ppiWrc _ => .ppi
  | .ppiWrctl _ => .ppi
  | .emsWrsel _ _ => .ems
  | .emsRdsel _ => .ems
  | .crtcWridx _ _ => .crtc
  | .crtcWrdata _ _ => .crtc
  | .crtcRddata _ => .crtc
  | .crtcRdidx _ => .crtc
  | .crtcRdstat _ => .crtc
  | .crtcWrstat _ _ => .crtc
  | .crtcBadport _ _ => .crtc
  | .egaWridx _ _ => .ega
  | .egaWrdata _ _ => .ega
  | .egaRddata _ => .ega
  | .egaRdstat _ => .ega
  | .egaWrseqidx _ => .ega
  | .egaWrseq _ => .ega
  | .egaRdseq => .ega
  | .egaWrgfxidx _ => .ega
  | .egaWrgfx _ => .ega
  | .egaRdgfx => .ega
  | .egaWr3c2 _ => .ega
  | .egaRd3c2 => .ega
  | .egaRdidx _ => .ega
  | .fdcWrdor _ => .fdc
  | .fdcRddor => .fdc
  | .fdcRdmsr => .fdc
  | .fdcWrdata _ => .fdc
  | .fdcRddata => .fdc
  | .fdcWrccr _ => .fdc
  | .fdcRdccr => .fdc
  | .fdcOther _ _ => .fdc
  | .emsMemr _ => .ems
  | .emsMemw _ _ => .ems
  | .egaMemr _ => .ega
  | .egaMemw _ _ => .ega
  | .picCallirq _ => .pic
  | .picClearirq _ => .pic
  | .picHasint => .pic
  | .picNextint => .pic
  | .pitTick => .pit
  | .ppiKeytyped _ => .ppi
  | .crtcGetreg _ => .crtc
  | .fdcInit => .fdc
  | .egaReset => .ega
  | .evMaskapply => .pic
  | .evKbdreset => .ppi
  | .fdcReadTrack _ _ => .fdc
  | .fdcSpecify _ _ => .fdc
  | .fdcSenseDriveStatus _ _ => .fdc
  | .fdcWriteData _ _ => .fdc
  | .fdcReadData _ _ => .fdc
  | .fdcRecalibrate _ _ => .fdc
  | .fdcSenseInterrupt _ => .fdc
  | .fdcWriteDeletedData _ _ => .fdc
  | .fdcReadId _ _ => .fdc
  | .fdcReadDeletedData _ _ => .fdc
  | .fdcFormatTrack _ _ => .fdc
  | .fdcSeek _ _ _ => .fdc
  | .fdcScanEqual _ _ => .fdc
  | .fdcScanLowOrEqual _ _ => .fdc
  | .fdcScanHighOrEqual _ _ => .fdc
  | .fdcInvalid _ _ => .fdc

/-- How many ticks a programmed reload value counts: the value, 0 standing for 65536 (R248). -/
def reloadTicks (value : Word16) : Nat := if value = 0 then 65536 else value.toNat

/-! ### Bytes stored -/

/-- From one EGAController to another, cell `cell` of plane `p` came to hold `v`, and no other byte of any plane
changed. The read-back is said of a plane in canonical form. -/
def Ega.storedOnly (e e' : Ega) (p : BitVec 2) (cell : Nat) (v : Byte) : Prop :=
  ((e.plane p).wf = true → (e'.plane p).read cell = v)
  ∧ ∀ q n, (q ≠ p ∨ n ≠ cell) → (e'.plane q).read n = (e.plane q).read n

/-- From one ExpandedMemory to another, byte `phys` of the store came to hold `v`, no other byte of the store and no
selector changed. The read-back is said of a store in canonical form. -/
def Ems.storedOnly (e e' : Ems) (phys : Nat) (v : Byte) : Prop :=
  e'.sel = e.sel ∧ (e.store.wf = true → e'.store.read phys = v)
  ∧ ∀ n, n ≠ phys → e'.store.read n = e.store.read n

/-! ### Init() -/

/-- `f'` is what Init() leaves of `f` (R395). -/
def Fdc.initialised (cfg : Config) (f f' : Fdc) : Prop :=
  f' = { f with status := cfg.fdcMsrIdle, buf := Vector.replicate 9 0, wr := 0, rd := 0, currentDrive := 0,
                drive := f'.drive }
  ∧ ∀ d, f'.driveAt d = { f.driveAt d with resultCode := cfg.fdcResetResult }

/-! ### The invariant -/

/-- No result is waiting: the status byte is the ready byte, the read cursor is at 0, and what has been written is less
than a whole command (R381, phases IDLE and COMMAND). -/
def Fdc.accepting (f : Fdc) (cfg : Config) : Prop :=
  f.status = cfg.fdcMsrIdle ∧ f.rd = 0 ∧ f.wr < cbReq cfg (fdcOpcode (bankRead f.buf 0))

/-- A result of two bytes is being read (R381, phase RESULT). -/
def Fdc.answering (f : Fdc) (cfg : Config) : Prop :=
  f.status = fdcResultStatus cfg ∧ f.rd < f.wr ∧ f.wr = 2

/-- A drive has its configured geometry, and its head is on one of its cylinders (R36, R400). -/
def Drive.sound (d : Drive) (g : Geometry) : Prop :=
  d.heads = g.heads ∧ d.cylinders = g.cylinders ∧ d.sectorsPerTrack = g.sectorsPerTrack ∧ d.cylinderPos < d.cylinders

/-- What every state of a run from construction meets. -/
structure State.Inv (s : State) : Prop where
  /-- 92_eei_decisions.md section 2 -/
  config : s.cfg.wf = true
  /-- R23: the two masks differ only while a MaskApply is queued. -/
  masks : s.pic.maskApplyPending = false → s.pic.imr = s.pic.imrShadow
  /-- R27: the counter select is stored as 0. -/
  control : ∀ k, (s.pit.counter k).control &&& 0xC0 = 0
  /-- R30 -/
  cassette : s.ppi.clk2 < s.cfg.ppiClkDiv
  /-- R320 (a) -/
  crtcIndex : s.crtc.index.toNat < 0x12
  /-- R351 (a) -/
  egaIndex : s.ega.crtc.index.toNat ≤ 0x18
  /-- R351 (a) -/
  seqIndex : s.ega.seqIndex.toNat ≤ 5
  /-- R351 (a) -/
  gfxIndex : s.ega.gfxIndex.toNat ≤ 8
  /-- R341: the self-test counter stops at the script's length. -/
  selfTest : s.ega.test ≤ s.cfg.egaScript.length
  /-- R345: every plane is in canonical form and inside its size. -/
  planes : ∀ p, (s.ega.plane p).wf = true ∧ (s.ega.plane p).within s.cfg.egaPlaneSize = true
  /-- R381, R400 (a), R400 (b) -/
  phase : s.fdc.accepting s.cfg ∨ s.fdc.answering s.cfg
  /-- R36, R400 (c) -/
  drives : ∀ d : BitVec 2, (s.fdc.driveAt d).sound (s.cfg.fdcGeom[d.toNat]'d.isLt)
  /-- R37: the store is in canonical form and inside its 2 MB. -/
  store : s.ems.store.wf = true ∧ s.ems.store.within emsStoreSize = true

end Sys2Proof.Machine
end

