-- ==== Sys2Proof/Certificates/Slice0/Obligations.lean ====
section
/-! DEFINITION. The statements about the block. A docstring says which sentence of spec/ a statement formalises. "Spec's
own decision Dn" marks a clause that spec/92_eei_decisions.md gives as the spec's choice, "log n" one that is the model's.
A frame is written `t = { s with … }`: every field that is not named, every byte of every store among them, is as it was. -/

section

open Sys2Proof Sys2Proof.Machine

/-! ### Encodings, dispatch and the step -/

/-- R111, R112, R113, R130: no bit of an operand is lost between `encode` and `decode`, for every operation and every
operand the encoding admits. That a byte access of memory outside both regions is an EMS operation is the model's choice
(log 21), that a command byte which is an End-Of-Interrupt and a read selection is PIC_EOI its inference (log 27). -/
def Obligations.DecodeReadsWhatEncodeWrites : Prop :=
  ∀ (c : Ctx) (i : Instr), i.wf = true → i.when c = true → decode c (encode i) = .instr i

/-- R111, R112, R113, R130: an operation word or a floppy command that decodes is the one its operation encodes to, and
the operation meets the model's conditions `wf` and `when`; with the statement before, the model names each word once.
Two of these names are not the table's own: a command byte that matches PIC_EOI and PIC_RDSEL at once is named PIC_EOI
(R112 lets both match; the model's inference, log 27), and byte accesses of memory outside both regions are named
EMS_MEMR and EMS_MEMW (R113 names them inside the EMS window only; the model's choice, log 21). -/
def Obligations.EncodeWritesWhatDecodeReads : Prop :=
  ∀ (c : Ctx) (r : Request) (i : Instr), (∀ p, r ≠ .portIn16 p) → (∀ p v, r ≠ .portOut16 p v) →
    decode c r = .instr i → i.wf = true ∧ i.when c = true ∧ encode i = r

/-- R8, R92, R152: a step performs the first operation requested, whole. That the operations to come stand in a list,
and that a step with an empty list changes nothing, are the model's choices (log 1, log 2). -/
def Obligations.StepPerformsTheDecodedOperation : Prop :=
  (∀ (s : State) (r : Request) (rest : List Request) (i : Instr),
    s.requests = r :: rest → (∀ p, r ≠ .portIn16 p) → decode s.ctx r = .instr i →
      step s = exec i { s with requests := rest })
  ∧ ∀ s : State, s.requests = [] → step s = .next s

/-- R111, R112, R113, R130: one operation word or floppy command of each family, written out from the encoding. That
MEMW 0xA0010 is EMS_MEMW on a machine without the EGA, wherever its EMS window lies, is the model's choice (log 21): R113
names the operation inside the window only. -/
def Obligations.WrittenOutWordsDecode : Prop :=
  (∀ c : Ctx, decode c (.op 0x10000534#32) = .instr (.dmaWrCnt 2 0x34)
    ∧ decode c (.op 0x10002013#32) = .instr (.picIcw0 0x13)
    ∧ decode c (.op 0x10002020#32) = .instr (.picEoi 0x20)
    ∧ decode c (.op 0x10004336#32) = .instr (.pitProg 0x36)
    ∧ decode c (.op 0x00006200#32) = .instr .ppiRdc
    ∧ decode c (.op 0x10026105#32) = .instr (.emsWrsel 1 0x05)
    ∧ decode c (.op 0x1003F50F#32) = .instr (.fdcWrdata 0x0F)
    ∧ decode c (.op 0x45000FFF#32) = .instr (.ppiKeytyped 0x0FFF)
    ∧ decode c (.op 0x50000001#32) = .instr .evKbdreset)
  ∧ ∀ (cfg : Config) (k : BitVec 2),
    let ega : Ctx := { cfg := { cfg with hasEga := true, crtcPortRole := Config.defaultPortRole }, icwStep := k }
    let plain : Ctx := { cfg := { cfg with hasEga := false, crtcPortRole := Config.defaultPortRole }, icwStep := k }
    let floppy : Ctx := { cfg := { cfg with fdcCbReq := Config.defaultCbReq }, icwStep := k }
    decode ega (.op 0x1003D414#32) = .instr (.egaWridx 0x3D4 0x14)
    ∧ decode plain (.op 0x1003D40E#32) = .instr (.crtcWridx 0x3D4 0x0E)
    ∧ decode plain (.op 0x1003D829#32) = .instr (.crtcBadport 0x3D8 (.write 0x29))
    ∧ decode plain (.op 0x3A00105A#32) = .instr (.emsMemw 0xA0010 0x5A)
    ∧ decode floppy (.fdcCmd [0x0F, 0x01, 0x0A]) = .instr (.fdcSeek 0 0x01 0x0A)

/-- R153: the ports of two registered chips never meet, so the order of the list cannot be observed; the two chips that
share ranges, the CRTController and the EGAController, are the reason why only one of them is registered. -/
def Obligations.RegisteredPortRangesAreDisjoint : Prop :=
  (∀ (c : Config) (p : Word16) (x y : Chip),
    x ∈ peripherals c → y ∈ peripherals c → connected x p = true → connected y p = true → x = y)
  ∧ (∀ (c : Config) (p : Word16) (l : List Chip),
      l.Perm (peripherals c) → l.find? (fun chip => connected chip p) = claimant c p)
  ∧ (∃ p, connected .crtc p = true ∧ connected .ega p = true)
  ∧ ∀ (x y : Chip) (p : Word16), x ≠ y → connected x p = true → connected y p = true →
      (x = .crtc ∧ y = .ega) ∨ (x = .ega ∧ y = .crtc)

/-- R154, P_WIDE_ACCESS (spec's own decision D3): an access of width 16 to a claimed port is refused, or is the access
of width 8 with the low byte, its result zero-extended. -/
def Obligations.WidePortAccessIsRefusedOrTheLowByte : Prop :=
  ∀ (s : State) (p v : Word16) (rest : List Request) (chip : Chip), claimant s.cfg p = some chip →
    (s.cfg.wideAccess = .refuse →
      (s.requests = .portOut16 p v :: rest → step s = .refused (.notAnOperation .wideAccess))
      ∧ (s.requests = .portIn16 p :: rest → step s = .refused (.notAnOperation .wideAccess)))
    ∧ (s.cfg.wideAccess = .lowByte →
      (s.requests = .portOut16 p v :: rest →
        step s = step { s with requests := .op (outWord p (v.setWidth 8)) :: rest })
      ∧ (s.requests = .portIn16 p :: rest →
        ∀ (t : State) (b : Byte), step { s with requests := .op (inWord p) :: rest } = .next t → t.result = .byte b →
          step s = .next { t with result := .word (b.setWidth 16) }))

/-- R155, R311 (spec's own decisions D4, D35): an OUT that no chip claims, or at a port of role `ignore`, changes
nothing; such an IN answers a free byte. The same of memory outside both regions is the model's choice (R158, log 21). -/
def Obligations.AccessesOutsideTheBlockChangeNothing : Prop :=
  (∀ (s : State) (p : Word16) (v : Byte) (rest : List Request),
    claimant s.cfg p = none ∨ (inCrtcRange p = true ∧ roleOf s.cfg p = .ignore) →
      (s.requests = .op (outWord p v) :: rest → step s = .next { s with requests := rest, result := .none })
      ∧ (s.requests = .op (inWord p) :: rest →
          step s = .next { s with requests := rest, result := .byte (Config.draw s.draws), draws := s.draws + 1 }))
  ∧ ∀ (s : State) (a : Addr) (v : Byte), inEmsWindow s.cfg a = false →
      exec (.emsMemr a) s = .next { s with result := .byte (Config.draw s.draws), draws := s.draws + 1 }
      ∧ exec (.emsMemw a v) s = .next { s with result := .none }

/-! ### The whole machine -/

/-- Every step keeps what `State.Inv` says: R23, R27, R36, R320 (a), R351 (a), R381, R400 (a) to (c), and the canonical
form of the stores (log 36). -/
def Obligations.EveryStepKeepsTheInvariant : Prop :=
  ∀ s t : State, s.Inv → step s = .next t → t.Inv

/-- R21, R490: the invariant holds after construction with any configuration that meets its constraints (log 42), and of
the reset machine. The zeros of construction are the spec's own decision D2 (log 33). The parameter values of the reset
machine, on which the second clause rests, are the model's choices and presumptions (logs 7 to 18). -/
def Obligations.ConstructionMeetsTheInvariant : Prop :=
  (∀ cfg : Config, cfg.wf = true → (State.construct cfg).Inv) ∧ State.reset.Inv

/-- R24, R26, R29, R31, R33, R35, R36, R38, R490: the values after construction. That they are 0 and false is the spec's
own decision D2 (log 33). The model's own fields, `requests`, `result` and `draws`, are not spoken of. -/
def Obligations.ConstructionLeavesTheStatedValues : Prop :=
  State.reset = State.construct Config.machine ∧
  ∀ cfg : Config, ∃ s : State, s = State.construct cfg ∧ s.cfg = cfg
    ∧ s.pic = { irr := 0, isr := 0, imr := 0, imrShadow := 0, icw := #v[0, 0, 0, 0], icwStep := 0, readIsr := false,
                maskApplyPending := false }
    ∧ (∀ ch, s.dma.chan ch = { address := 0, count := 0, toggle := false })
    ∧ (∀ k, s.pit.counter k =
        { value := 0, count := 0, control := 0, latch := 0, latched := false, enabled := false, output := false,
          readToggle := false, writeToggle := false })
    ∧ s.ppi = { scan := 0, portB := 0, portC := 0, ctrl := 0, clk2 := 0, clkBit := false, resetPending := 0 }
    ∧ (s.crtc.index = 0 ∧ s.crtc.retracePhase = 0 ∧ ∀ i : Fin 18, s.crtc.reg[i] = 0)
    ∧ s.ega.crtc = s.crtc
    ∧ ((∀ i : Fin 7, s.ega.reg[i] = 0) ∧ (∀ i : Fin 6, s.ega.seq[i] = 0) ∧ (∀ i : Fin 9, s.ega.gfx[i] = 0))
    ∧ (s.ega.test = 0 ∧ s.ega.seqIndex = 0 ∧ s.ega.gfxIndex = 0 ∧ s.ega.rr = 0 ∧ s.ega.lastMode = 0)
    ∧ (∀ p n, (s.ega.plane p).read n = 0)
    ∧ (s.fdc.status = cfg.fdcMsrIdle ∧ (∀ i : Fin 9, s.fdc.buf[i] = 0) ∧ s.fdc.wr = 0 ∧ s.fdc.rd = 0
        ∧ s.fdc.outputReg = 0 ∧ s.fdc.inputReg = 0 ∧ s.fdc.controlReg = 0 ∧ s.fdc.currentDrive = 0)
    ∧ (∀ d : BitVec 2, s.fdc.driveAt d =
        { heads := (cfg.fdcGeom[d.toNat]'d.isLt).heads, cylinders := (cfg.fdcGeom[d.toNat]'d.isLt).cylinders,
          sectorsPerTrack := (cfg.fdcGeom[d.toNat]'d.isLt).sectorsPerTrack, headPos := 0, cylinderPos := 0,
          seekTarget := 0, resultCode := 0 })
    ∧ s.ems.sel = #v[0, 0, 0, 0] ∧ ∀ n, s.ems.store.read n = 0

/-- R42, R46, R455, R320 (d), R351 (g), R438 (f): an operation of one chip changes no other, except that the timer, the
parallel interface and the floppy controller reach the request register, each at its own line. No operation changes the
configuration or the operations to come (log 1, log 6). -/
def Obligations.OperationsStayInTheirChip : Prop :=
  ∀ (i : Instr) (s t : State), exec i s = .next t →
    t.cfg = s.cfg ∧ t.requests = s.requests
    ∧ (chipOf i ≠ .dma → t.dma = s.dma) ∧ (chipOf i ≠ .pit → t.pit = s.pit) ∧ (chipOf i ≠ .ppi → t.ppi = s.ppi)
    ∧ (chipOf i ≠ .crtc → t.crtc = s.crtc) ∧ (chipOf i ≠ .ega → t.ega = s.ega) ∧ (chipOf i ≠ .fdc → t.fdc = s.fdc)
    ∧ (chipOf i ≠ .ems → t.ems = s.ems)
    ∧ (chipOf i ≠ .pic → t.pic = { s.pic with irr := t.pic.irr })
    ∧ (chipOf i = .dma ∨ chipOf i = .crtc ∨ chipOf i = .ega ∨ chipOf i = .ems → t.pic = s.pic)
    ∧ (chipOf i = .pit → ∀ n, n ≠ 0 → t.pic.irr.getLsbD n = s.pic.irr.getLsbD n)
    ∧ (chipOf i = .ppi → ∀ n, n ≠ 1 → t.pic.irr.getLsbD n = s.pic.irr.getLsbD n)
    ∧ (chipOf i = .fdc → ∀ n, n ≠ 6 → t.pic.irr.getLsbD n = s.pic.irr.getLsbD n)

/-- R451: an operation faults on exactly these causes. The sixth, and that an index faults at the index write, are the
spec's own decisions (D9, D36, D51). -/
def Obligations.FaultsAreExactlyTheListedCauses : Prop :=
  ∀ (i : Instr) (s : State) (f : Fault), exec i s = .fault f ↔
    (∃ p v, i = .crtcWridx p v ∧ 0x12 ≤ v.toNat ∧ f = .hardwareProtocolViolation .crtcIndex)
    ∨ (∃ p v, i = .egaWridx p v ∧ 0x18 < v.toNat ∧ f = .hardwareProtocolViolation .egaIndex)
    ∨ (∃ v, i = .egaWrseqidx v ∧ 5 < v.toNat ∧ f = .hardwareProtocolViolation .sequencerIndex)
    ∨ (∃ v, i = .egaWrgfxidx v ∧ 8 < v.toNat ∧ f = .hardwareProtocolViolation .graphicsIndex)
    ∨ (∃ p acc, i = .crtcBadport p acc ∧ f = .hardwareProtocolViolation .crtcPort)
    ∨ (∃ a, (i = .emsMemr a ∨ ∃ v, i = .emsMemw a v) ∧ inEmsWindow s.cfg a = true ∧ s.cfg.emsOob = .fault
        ∧ 128 ≤ (s.ems.selector (frameSub (a.toNat - s.cfg.emsBase))).toNat
        ∧ f = .hardwareProtocolViolation .emsSelector)

/-- R318 (spec's own decision D35): an access to a CRTC-range port without a role always ends in the fault. -/
def Obligations.UnrecognisedCrtcPortFaults : Prop :=
  ∀ (p : Word16) (acc : PortAccess) (s : State),
    exec (.crtcBadport p acc) s = .fault (.hardwareProtocolViolation .crtcPort)

/-- The refusals of R171, R319, R347 and R86 (spec's own decisions D18, D36, D40, D52), and the model's own: an event that
is not pending (log 20) and egaReset() without an EGAController (log 25). That an access of two bytes which touches a
region with either byte is refused whole is the model's choice (log 24); the address of its second byte is exact (R9). -/
def Obligations.ArgumentsOutsideTheContractAreRefused : Prop :=
  ∀ s : State,
    (∀ line : Word16, 8 ≤ line.toNat →
      exec (.picCallirq line) s = .refused .lineOutOfRange ∧ exec (.picClearirq line) s = .refused .lineOutOfRange)
    ∧ (∀ i : Word16, 18 ≤ i.toNat → exec (.crtcGetreg i) s = .refused .registerOutOfRange)
    ∧ (∀ (off : Word16) (v : Byte), chained s.cfg s.ega.gfx = false → s.cfg.egaWriteClass = .absent →
        exec (.egaMemw off v) s = .refused .noWriteClass)
    ∧ (s.pic.maskApplyPending = false → exec .evMaskapply s = .refused .eventNotPending)
    ∧ (s.ppi.resetPending = 0 → exec .evKbdreset s = .refused .eventNotPending)
    ∧ (s.cfg.hasEga = false → exec .egaReset s = .refused .noEga)
    ∧ ∀ (a : Addr) (v : Word16) (rest : List Request),
        (∃ n, (n = a.toNat ∨ n = a.toNat + 1)
          ∧ ((s.cfg.hasEga = true ∧ 0xA0000 ≤ n ∧ n < 0xB0000) ∨ (s.cfg.emsBase ≤ n ∧ n < s.cfg.emsBase + 0x10000))) →
        (s.requests = .memIn16 a :: rest → step s = .refused (.notAnOperation .wideRegionAccess))
        ∧ (s.requests = .memOut16 a v :: rest → step s = .refused (.notAnOperation .wideRegionAccess))

/-- R141 and the rules it gathers, R215, R234, R244, R289, R315, R317, R340, R342, R398 (the spec's own decisions D19,
D20, D29, D34, D36, D38, D50): a write without a function changes nothing, a read without one answers a free
byte and changes nothing else. -/
def Obligations.AccessesWithoutAFunctionChangeNothing : Prop :=
  ∀ (s : State) (p : Word16) (v : Byte),
    (∀ i : Instr, i = .dmaWr08 v ∨ i = .pitSel3 v ∨ i = .ppiWra v ∨ i = .crtcWrstat p v ∨ i = .egaWr3c2 v
        ∨ i = .fdcOther p (.write v) → exec i s = .next { s with result := .none })
    ∧ ∀ i : Instr, i = .pitRdctl ∨ i = .crtcRdidx p ∨ i = .egaRd3c2 ∨ i = .egaRdidx p ∨ i = .fdcOther p .read →
        exec i s = .next { s with result := .byte (Config.draw s.draws), draws := s.draws + 1 }

/-! ### Plain registers -/

/-- R284, R287, R397, R431, R432: port 1 and the control echo of the parallel interface read as last written, the floppy
control register stores and returns a byte, an EMS selector stores one and reads as 0xFF. -/
def Obligations.StoredPortsReadAsTheRulesSay : Prop :=
  ∀ (s : State) (sub : BitVec 2) (v : Byte),
    exec .ppiRdb s = .next { s with result := .byte s.ppi.portB }
    ∧ exec .ppiRdctl s = .next { s with result := .byte s.ppi.ctrl }
    ∧ exec (.fdcWrccr v) s = .next { s with fdc := { s.fdc with controlReg := v }, result := .none }
    ∧ exec .fdcRdccr s = .next { s with result := .byte s.fdc.controlReg }
    ∧ (∃ t, exec (.emsWrsel sub v) s = .next t ∧ t = { s with ems := { s.ems with sel := t.ems.sel }, result := .none }
        ∧ ∀ k : BitVec 2, t.ems.selector k = if k = sub then v else s.ems.selector k)
    ∧ exec (.emsRdsel sub) s = .next { s with result := .byte 0xFF }

/-- R124, R185, R186, R214, R288, R290, R319, R383, R384 (the spec's own decisions D12, D16, D19, D31, D34, D36, D44,
D50): what these accesses store or return. -/
def Obligations.PlainRegisterAccesses : Prop :=
  ∀ (s : State) (v : Byte),
    (∃ b, exec .dmaRdstat s = .next { s with result := .byte b }
      ∧ (∀ ch : BitVec 2, b.getLsbD ch.toNat = decide ((s.dma.chan ch).count = 0xFFFF))
      ∧ ∀ n, 4 ≤ n → b.getLsbD n = false)
    ∧ exec .picRdstat s = .next { s with result := .byte (if s.pic.readIsr then s.pic.isr else s.pic.irr) }
    ∧ exec .picRdmask s = .next { s with result := .byte s.pic.imrShadow }
    ∧ exec (.ppiWrctl v) s = .next { s with ppi := { s.ppi with ctrl := v }, result := .none }
    ∧ exec (.ppiWrc v) s = .next { s with ppi := { s.ppi with portC := v }, result := .none }
    ∧ exec .fdcRddor s = .next { s with result := .byte s.fdc.outputReg }
    ∧ exec .fdcRdmsr s = .next { s with result := .byte s.fdc.status }
    ∧ ∀ (i : Word16) (h : i.toNat < 18),
        (s.cfg.hasEga = false → exec (.crtcGetreg i) s = .next { s with result := .byte (s.crtc.reg[i.toNat]'h) })
        ∧ (s.cfg.hasEga = true → exec (.crtcGetreg i) s = .next { s with result := .byte (s.ega.crtc.reg[i.toNat]'h) })

/-! ### DMAController -/

/-- R211, R212 (spec's own decision D19): a write replaces the byte the toggle selects, low before high. -/
def Obligations.DmaWriteReplacesOneByte : Prop :=
  ∀ (ch : BitVec 2) (v : Byte) (s : State), ∃ c : Channel, c = s.dma.chan ch
    ∧ (∃ t, exec (.dmaWrAddr ch v) s = .next t ∧ t = { s with dma := t.dma, result := .none }
        ∧ (∀ j, j ≠ ch → t.dma.chan j = s.dma.chan j)
        ∧ t.dma.chan ch = { c with
            toggle := !c.toggle
            address := if c.toggle then (c.address &&& 0x00FF) ||| (v.setWidth 16 <<< 8)
                       else (c.address &&& 0xFF00) ||| v.setWidth 16 })
    ∧ (∃ t, exec (.dmaWrCnt ch v) s = .next t ∧ t = { s with dma := t.dma, result := .none }
        ∧ (∀ j, j ≠ ch → t.dma.chan j = s.dma.chan j)
        ∧ t.dma.chan ch = { c with
            toggle := !c.toggle
            count := if c.toggle then (c.count &&& 0x00FF) ||| (v.setWidth 16 <<< 8)
                     else (c.count &&& 0xFF00) ||| v.setWidth 16 })

/-- R213: a read returns the byte the toggle selects and flips the toggle. -/
def Obligations.DmaReadReturnsOneByteAndFlipsTheToggle : Prop :=
  ∀ (ch : BitVec 2) (s : State), ∃ c : Channel, c = s.dma.chan ch
    ∧ (∃ t, exec (.dmaRdAddr ch) s = .next t
        ∧ t = { s with
            dma := t.dma
            result := .byte (if c.toggle then c.address.extractLsb' 8 8 else c.address.extractLsb' 0 8) }
        ∧ (∀ j, j ≠ ch → t.dma.chan j = s.dma.chan j) ∧ t.dma.chan ch = { c with toggle := !c.toggle })
    ∧ (∃ t, exec (.dmaRdCnt ch) s = .next t
        ∧ t = { s with
            dma := t.dma
            result := .byte (if c.toggle then c.count.extractLsb' 8 8 else c.count.extractLsb' 0 8) }
        ∧ (∀ j, j ≠ ch → t.dma.chan j = s.dma.chan j) ∧ t.dma.chan ch = { c with toggle := !c.toggle })

/-- R216, the source's testable property, which the spec derives from R212 and R213: two bytes written to a port and read
back come in the order they were written, and the register holds them low first if the toggle was false, else high
first. -/
def Obligations.DmaRoundTrip : Prop :=
  ∀ (ch : BitVec 2) (v1 v2 : Byte) (s : State),
    (∃ t u w, runAll [.dmaWrAddr ch v1, .dmaWrAddr ch v2] s = .next t
      ∧ exec (.dmaRdAddr ch) t = .next u ∧ u.result = .byte v1
      ∧ exec (.dmaRdAddr ch) u = .next w ∧ w.result = .byte v2
      ∧ (t.dma.chan ch).toggle = (s.dma.chan ch).toggle ∧ w.dma.chan ch = t.dma.chan ch
      ∧ (t.dma.chan ch).address = if (s.dma.chan ch).toggle then v1 ++ v2 else v2 ++ v1)
    ∧ (∃ t u w, runAll [.dmaWrCnt ch v1, .dmaWrCnt ch v2] s = .next t
      ∧ exec (.dmaRdCnt ch) t = .next u ∧ u.result = .byte v1
      ∧ exec (.dmaRdCnt ch) u = .next w ∧ w.result = .byte v2
      ∧ (t.dma.chan ch).toggle = (s.dma.chan ch).toggle ∧ w.dma.chan ch = t.dma.chan ch
      ∧ (t.dma.chan ch).count = if (s.dma.chan ch).toggle then v1 ++ v2 else v2 ++ v1)

/-! ### InterruptController -/

/-- R172, R173: the two calls set and clear one bit of the request register and touch nothing else. -/
def Obligations.CallAndClearReachOneRequestBit : Prop :=
  ∀ (line : Word16) (s : State), line.toNat < 8 →
    (∃ t, exec (.picCallirq line) s = .next t
      ∧ t = { s with pic := { s.pic with irr := t.pic.irr }, result := .none }
      ∧ ∀ n, n < 8 → t.pic.irr.getLsbD n = (s.pic.irr.getLsbD n || n == line.toNat))
    ∧ (∃ t, exec (.picClearirq line) s = .next t
      ∧ t = { s with pic := { s.pic with irr := t.pic.irr }, result := .none }
      ∧ ∀ n, n < 8 → t.pic.irr.getLsbD n = (s.pic.irr.getLsbD n && n != line.toNat))

/-- R174, R456: `hasInt()` tells whether a request is not masked, and changes nothing. -/
def Obligations.HasIntTellsWhetherALineIsDeliverable : Prop :=
  ∀ s : State, ∃ t b, exec .picHasint s = .next t ∧ t = { s with result := .flag b }
    ∧ (b = true ↔ s.pic.irr &&& ~~~s.pic.imr ≠ 0)
    ∧ (b = true ↔ ∃ n, n < 8 ∧ s.pic.irr.getLsbD n = true ∧ s.pic.imr.getLsbD n = false)

/-- R176, R457, R458: `nextInt()` takes the lowest deliverable line into service and returns its vector; with none it
returns 0 and changes nothing. That the vector is reduced modulo 256 is the spec's own decision D17. -/
def Obligations.NextIntTakesTheLowestDeliverableLine : Prop :=
  ∀ s : State,
    (∀ n, n < 8 → s.pic.irr.getLsbD n = true → s.pic.imr.getLsbD n = false →
      (∀ m, m < n → s.pic.irr.getLsbD m = true → s.pic.imr.getLsbD m = true) →
        ∃ t, exec .picNextint s = .next t
          ∧ t = { s with
              pic := { s.pic with irr := t.pic.irr, isr := t.pic.isr }
              result := .byte (BitVec.ofNat 8 (s.pic.icw[1].toNat + n)) }
          ∧ ∀ m, m < 8 → t.pic.irr.getLsbD m = (s.pic.irr.getLsbD m && m != n)
              ∧ t.pic.isr.getLsbD m = (s.pic.isr.getLsbD m || m == n))
    ∧ ((∀ n, n < 8 → s.pic.irr.getLsbD n = true → s.pic.imr.getLsbD n = true) →
        exec .picNextint s = .next { s with result := .byte 0 })

/-- R179, R180, R459: the End-Of-Interrupt clears the lowest bit in service, whatever the byte's other bits. Which bytes
are End-Of-Interrupts and which are read selections too, and that a byte which is both does both, are the spec's own
decisions D13 and D14; that such a byte is named PIC_EOI is the model's inference (log 27). -/
def Obligations.EndOfInterruptClearsTheLowestLineInService : Prop :=
  ∀ (v : Byte) (s : State), v.getLsbD 4 = false → v.getLsbD 5 = true →
    ∃ t, exec (.picEoi v) s = .next t
      ∧ t = { s with pic := { s.pic with isr := t.pic.isr, readIsr := t.pic.readIsr }, result := .none }
      ∧ (v &&& 0x8A ≠ 0x0A → t.pic.readIsr = s.pic.readIsr)
      ∧ (s.pic.isr = 0 → t.pic.isr = 0)
      ∧ ∀ n, n < 8 → s.pic.isr.getLsbD n = true → (∀ m, m < n → s.pic.isr.getLsbD m = false) →
          ∀ m, m < 8 → t.pic.isr.getLsbD m = (s.pic.isr.getLsbD m && m != n)

/-- R179, R181 (the spec's own decisions D13, D14): the read selection of an operation command, and a command that is
neither. A byte that is both an End-Of-Interrupt and a read selection is named PIC_EOI (log 27). -/
def Obligations.OperationCommandsSelectTheStatusRegister : Prop :=
  ∀ (i : Instr) (v : Byte) (s : State), i = .picEoi v ∨ i = .picRdsel v ∨ i = .picOcwNop v → i.wf = true →
    ∃ t, exec i s = .next t
      ∧ t = { s with pic := { s.pic with isr := t.pic.isr, readIsr := t.pic.readIsr }, result := .none }
      ∧ (v &&& 0x8A = 0x0A → t.pic.readIsr = v.getLsbD 0)
      ∧ (v &&& 0x8A ≠ 0x0A → t.pic.readIsr = s.pic.readIsr)
      ∧ (v.getLsbD 5 = false → t.pic.isr = s.pic.isr)

/-- R178, R182 (the spec's own decisions D10, D11, D12, conflict C1): the initialization words, their order, and the one
that single mode skips. -/
def Obligations.InitializationWordsAreStoredInOrder : Prop :=
  ∀ (v : Byte) (s : State),
    (v.getLsbD 4 = true → ∃ t, exec (.picIcw0 v) s = .next t
      ∧ t = { s with
          pic := { s.pic with icw := t.pic.icw, icwStep := 1, imr := 0, imrShadow := 0, readIsr := false }
          result := .none }
      ∧ ∀ j : Fin 4, t.pic.icw[j] = if j = 0 then v else s.pic.icw[j])
    ∧ (s.pic.icwStep ≠ 0 → ∃ t, exec (.picIcwn v) s = .next t
      ∧ t = { s with pic := { s.pic with icw := t.pic.icw, icwStep := t.pic.icwStep }, result := .none }
      ∧ (∀ j : Fin 4, t.pic.icw[j] = if j.val = s.pic.icwStep.toNat then v else s.pic.icw[j])
      ∧ t.pic.icwStep.toNat =
          if s.pic.icwStep = 1 ∧ s.pic.icw[0].getLsbD 1 = true then 3 else (s.pic.icwStep.toNat + 1) % 4)

/-- R183: a mask other than 0 is in force at once. -/
def Obligations.NonZeroMaskIsInForceAtOnce : Prop :=
  ∀ (v : Byte) (s : State), v ≠ 0 → s.pic.icwStep = 0 →
    exec (.picSetmask v) s = .next { s with pic := { s.pic with imr := v, imrShadow := v }, result := .none }

/-- R184, R187, R493 (spec's own decision D15): a mask of 0 waits for the MaskApply it queues; the event copies the
shadow, so that one made stale by a later mask or by an ICW0 changes nothing. -/
def Obligations.ZeroMaskWaitsForItsEvent : Prop :=
  ∀ (v : Byte) (s : State),
    exec .picSetmask0 s = .next { s with pic := { s.pic with imrShadow := 0, maskApplyPending := true }, result := .none }
    ∧ (s.pic.maskApplyPending = true → exec .evMaskapply s =
        .next { s with pic := { s.pic with imr := s.pic.imrShadow, maskApplyPending := false }, result := .none })
    ∧ (∃ t, runAll [.picSetmask0, .evMaskapply] s = .next t ∧ t.pic.imr = 0)
    ∧ (∃ t, runAll [.picSetmask0, .picSetmask v, .evMaskapply] s = .next t ∧ t.pic.imr = v)
    ∧ (∃ t, runAll [.picSetmask0, .picIcw0 v, .evMaskapply] s = .next t ∧ t.pic.imr = 0)

/-- R188, the source's testable property, which the spec derives from R174, R176 and R180, for any two lines: the lower
is served first, and after its End-Of-Interrupt the other; then nothing is deliverable. That the vectors are reduced
modulo 256 is the spec's own decision D17. -/
def Obligations.TwoRequestsAreServedInOrder : Prop :=
  ∀ (a b : Nat) (s : State), a < b → b < 8 →
    (∀ n, n < 8 → s.pic.irr.getLsbD n = (n == a || n == b)) → s.pic.imr = 0 → s.pic.isr = 0 →
    ∃ t u w, exec .picNextint s = .next t ∧ t.result = .byte (s.pic.icw[1] + BitVec.ofNat 8 a)
      ∧ (∀ n, n < 8 → t.pic.isr.getLsbD n = (n == a))
      ∧ runAll [.picEoi 0x20, .picNextint] t = .next u ∧ u.result = .byte (s.pic.icw[1] + BitVec.ofNat 8 b)
      ∧ (∀ n, n < 8 → u.pic.isr.getLsbD n = (n == b))
      ∧ exec .picHasint u = .next w ∧ w.result = .flag false

/-! ### IntervalTimer -/

/-- R231, R232, R233 (the spec's own decisions D20, D21, D24): what a programming word and a latch command do to the
counter they select, and to nothing else. -/
def Obligations.ControlWordProgramsOrLatchesItsCounter : Prop :=
  ∀ (k : Fin 3) (v : Byte) (s : State), (ctlSelect v).toNat = k.val → ∃ c : Counter, c = s.pit.counter k
    ∧ (ctlFormat v ≠ 0 → ∃ t, exec (.pitProg v) s = .next t ∧ t = { s with pit := t.pit, result := .none }
        ∧ (∀ j, j ≠ k → t.pit.counter j = s.pit.counter j)
        ∧ t.pit.counter k = { c with
            control := v &&& 0x3F, readToggle := false, writeToggle := false, latched := false, enabled := false })
    ∧ (ctlFormat v = 0 → ∃ t, exec (.pitLatch v) s = .next t ∧ t = { s with pit := t.pit, result := .none }
        ∧ (∀ j, j ≠ k → t.pit.counter j = s.pit.counter j)
        ∧ (c.latched = true → t.pit.counter k = c)
        ∧ (c.latched = false → t.pit.counter k = { c with latch := c.count, latched := true }))

/-- R28, R235, R237, R245, R247 (a) (the spec's own decisions D22, D23, D25, D29): a byte written to a counter's data
port, by its format; a completed load starts the counter, presets its output, and for counter 0 clears line 0. -/
def Obligations.CounterWriteLoadsByFormat : Prop :=
  ∀ (k : Fin 3) (v : Byte) (s : State), ∃ (c : Counter) (t : State), c = s.pit.counter k
    ∧ exec (.pitWr k v) s = .next t
    ∧ t = { s with pit := t.pit, pic := { s.pic with irr := t.pic.irr }, result := .none }
    ∧ (∀ j, j ≠ k → t.pit.counter j = s.pit.counter j)
    ∧ (c.control.extractLsb' 4 2 = 0 → t.pit.counter k = c ∧ t.pic = s.pic)
    ∧ (c.control.extractLsb' 4 2 = 3 → c.writeToggle = false →
        t.pit.counter k = { c with value := (c.value &&& 0xFF00) ||| v.setWidth 16, writeToggle := true }
        ∧ t.pic = s.pic)
    ∧ ∀ (w : Word16) (toggle : Bool),
        (c.control.extractLsb' 4 2 = 1 ∧ w = v.setWidth 16 ∧ toggle = c.writeToggle)
        ∨ (c.control.extractLsb' 4 2 = 2 ∧ w = v.setWidth 16 <<< 8 ∧ toggle = c.writeToggle)
        ∨ (c.control.extractLsb' 4 2 = 3 ∧ c.writeToggle = true
            ∧ w = (c.value &&& 0x00FF) ||| (v.setWidth 16 <<< 8) ∧ toggle = false) →
        t.pit.counter k = { c with
            value := w, count := w, enabled := true, writeToggle := toggle
            output := decide (c.control.extractLsb' 1 3 ∈ [2, 3, 6, 7]) }
        ∧ (k = 0 → ∀ n, n < 8 → t.pic.irr.getLsbD n = (s.pic.irr.getLsbD n && n != 0))
        ∧ (k ≠ 0 → t.pic = s.pic)

/-- R236, R245 (the spec's own decisions D24, D29): what a read of a counter's data port returns and releases. -/
def Obligations.CounterReadReturnsLatchOrCountByFormat : Prop :=
  ∀ (k : Fin 3) (s : State), ∃ (c : Counter) (src : Word16), c = s.pit.counter k
    ∧ (c.latched = true → src = c.latch) ∧ (c.latched = false → src = c.count)
    ∧ (c.control.extractLsb' 4 2 = 0 →
        exec (.pitRd k) s = .next { s with result := .byte (Config.draw s.draws), draws := s.draws + 1 })
    ∧ ∀ (b : Byte) (toggle latched : Bool),
        (c.control.extractLsb' 4 2 = 1 ∧ b = src.extractLsb' 0 8 ∧ toggle = c.readToggle ∧ latched = false)
        ∨ (c.control.extractLsb' 4 2 = 2 ∧ b = src.extractLsb' 8 8 ∧ toggle = c.readToggle ∧ latched = false)
        ∨ (c.control.extractLsb' 4 2 = 3 ∧ c.readToggle = false
            ∧ b = src.extractLsb' 0 8 ∧ toggle = true ∧ latched = c.latched)
        ∨ (c.control.extractLsb' 4 2 = 3 ∧ c.readToggle = true
            ∧ b = src.extractLsb' 8 8 ∧ toggle = false ∧ latched = false) →
        ∃ t, exec (.pitRd k) s = .next t ∧ t = { s with pit := t.pit, result := .byte b }
          ∧ (∀ j, j ≠ k → t.pit.counter j = s.pit.counter j)
          ∧ t.pit.counter k = { c with readToggle := toggle, latched := latched }

/-- R238: a tick raises line 0 exactly when counter 0's output goes from false to true, and touches no other line. -/
def Obligations.TickRaisesLineZeroOnTheRisingEdge : Prop :=
  ∀ s : State, ∃ t, exec .pitTick s = .next t
    ∧ t = { s with pit := t.pit, pic := { s.pic with irr := t.pic.irr }, result := .none }
    ∧ ∀ n, n < 8 → t.pic.irr.getLsbD n =
        (s.pic.irr.getLsbD n || (n == 0 && !(s.pit.counter 0).output && (t.pit.counter 0).output))

/-- R239, R240, R241, R242, R243 (the spec's own decisions D25 to D28): what one tick does to each counter, by mode. -/
def Obligations.TickMovesEachCounterByItsMode : Prop :=
  ∀ (s : State) (k : Fin 3), ∃ (t : State) (c : Counter), exec .pitTick s = .next t ∧ c = s.pit.counter k
    ∧ (c.enabled = false → t.pit.counter k = c)
    ∧ (c.enabled = true → ∀ m : BitVec 3, m = c.control.extractLsb' 1 3 →
      (m = 1 ∨ m = 4 ∨ m = 5 → t.pit.counter k = c)
      ∧ (m = 0 → t.pit.counter k =
          if c.count = 1 then { c with count := 0, output := true, enabled := false }
          else { c with count := c.count - 1 })
      ∧ (m = 2 ∨ m = 6 → t.pit.counter k =
          if c.output = false then { c with output := true }
          else if c.count = 2 then { c with count := c.value, output := false }
          else { c with count := c.count - 1 })
      ∧ (m = 3 ∨ m = 7 → ∀ d : Word16,
          d = (if c.count.getLsbD 0 = false then 2 else if c.output = true then 1 else 3) →
          t.pit.counter k =
            if c.count = d then { c with count := c.value, output := !c.output }
            else { c with count := c.count - d }))

/-- R240, R248 (spec's own decision D25): a counter loaded with n in mode 0 counts down to 0 in n ticks, asserts its
output there and stops; counter 0 requests line 0 then. -/
def Obligations.ModeZeroAssertsItsOutputOnce : Prop :=
  ∀ (s : State) (k : Fin 3) (c : Counter), c = s.pit.counter k →
    c.enabled = true → c.mode = .m0 → c.output = false → c.count = c.value →
    ∀ j : Nat, ∃ t, runAll (List.replicate j .pitTick) s = .next t
      ∧ t.pit.counter k = { c with
          count := if j < reloadTicks c.value then c.value - BitVec.ofNat 16 j else 0
          output := decide (reloadTicks c.value ≤ j)
          enabled := decide (j < reloadTicks c.value) }
      ∧ (k = 0 → s.pic.irr.getLsbD 0 = false → t.pic.irr.getLsbD 0 = decide (reloadTicks c.value ≤ j))

/-- R241, R247 (b), R248 (spec's own decision D26, conflict C4): a counter loaded with n in mode 2 has period n: its
output is low after the ticks n - 1, 2n - 1, … and only then; counter 0 first requests line 0 on tick n. A load of 1 is
the degenerate run of R241 and is left out. -/
def Obligations.ModeTwoPulsesAtTheReloadRate : Prop :=
  ∀ (s : State) (k : Fin 3) (c : Counter), c = s.pit.counter k →
    c.enabled = true → c.mode = .m2 → c.output = true → c.count = c.value → c.value ≠ 1 →
    ∀ j : Nat, ∃ t, runAll (List.replicate j .pitTick) s = .next t
      ∧ t.pit.counter k = { c with
          count := if j % reloadTicks c.value = reloadTicks c.value - 1 then c.value
                   else c.value - BitVec.ofNat 16 (j % reloadTicks c.value)
          output := decide (j % reloadTicks c.value ≠ reloadTicks c.value - 1) }
      ∧ (k = 0 → s.pic.irr.getLsbD 0 = false → t.pic.irr.getLsbD 0 = decide (reloadTicks c.value ≤ j))

/-- R242, R247 (c), R248 (spec's own decision D27): a counter loaded with n in mode 3 is high for (n + 1) / 2 ticks and
low for the other n / 2 of each period; counter 0 first requests line 0 on tick n. A load of 1 is the degenerate run of
R242 and is left out. -/
def Obligations.ModeThreeIsASquareWave : Prop :=
  ∀ (s : State) (k : Fin 3) (c : Counter), c = s.pit.counter k →
    c.enabled = true → c.mode = .m3 → c.output = true → c.count = c.value → c.value ≠ 1 →
    ∀ j : Nat, ∃ t, runAll (List.replicate j .pitTick) s = .next t
      ∧ t.pit.counter k = { c with
          count := (t.pit.counter k).count
          output := decide (j % reloadTicks c.value < (reloadTicks c.value + 1) / 2) }
      ∧ (k = 0 → s.pic.irr.getLsbD 0 = false → t.pic.irr.getLsbD 0 = decide (reloadTicks c.value ≤ j))

/-! ### ParallelInterface -/

/-- R282: a scan code is latched whole and line 1 is requested. -/
def Obligations.KeyTypedLatchesTheCodeAndRequestsLineOne : Prop :=
  ∀ (code : Word16) (s : State), ∃ t, exec (.ppiKeytyped code) s = .next t
    ∧ t = { s with ppi := { s.ppi with scan := code }, pic := { s.pic with irr := t.pic.irr }, result := .none }
    ∧ ∀ n, n < 8 → t.pic.irr.getLsbD n = (s.pic.irr.getLsbD n || n == 1)

/-- R283 (the spec's own decisions D31, D32): the switches while they are selected, 0xAA once for the sentinel, else the
scan code's low byte. -/
def Obligations.PortZeroReadsSwitchesSentinelOrScanCode : Prop :=
  ∀ s : State,
    (s.ppi.portB.getLsbD s.cfg.ppiSwModeBit.val = true →
      exec .ppiRda s = .next { s with result := .byte s.cfg.ppiSw })
    ∧ (s.ppi.portB.getLsbD s.cfg.ppiSwModeBit.val = false → s.ppi.scan = 0x0FFF →
        exec .ppiRda s = .next { s with ppi := { s.ppi with scan := 0 }, result := .byte 0xAA })
    ∧ (s.ppi.portB.getLsbD s.cfg.ppiSwModeBit.val = false → s.ppi.scan ≠ 0x0FFF →
        exec .ppiRda s = .next { s with result := .byte (s.ppi.scan.setWidth 8) })

/-- R285, R291 (spec's own decision D33): a write of port 1 queues an injection if bit 6 is clear and clears line 1 if
bit 7 is set; a queued injection does what keyTyped(0x0FFF) does. -/
def Obligations.PortOneWriteQueuesTheKeyboardReset : Prop :=
  ∀ (v : Byte) (s : State),
    (∃ t, exec (.ppiWrb v) s = .next t
      ∧ t = { s with
          ppi := { s.ppi with
            portB := v, resetPending := s.ppi.resetPending + (if v.getLsbD 6 = false then 1 else 0) }
          pic := { s.pic with irr := t.pic.irr }
          result := .none }
      ∧ ∀ n, n < 8 → t.pic.irr.getLsbD n = (s.pic.irr.getLsbD n && !(n == 1 && v.getLsbD 7)))
    ∧ (0 < s.ppi.resetPending → ∃ t, exec .evKbdreset s = .next t
      ∧ t = { s with
          ppi := { s.ppi with scan := 0x0FFF, resetPending := s.ppi.resetPending - 1 }
          pic := { s.pic with irr := t.pic.irr }
          result := .none }
      ∧ ∀ n, n < 8 → t.pic.irr.getLsbD n = (s.pic.irr.getLsbD n || n == 1))

/-- R286 (spec's own decision D31): a read of port 2 advances the cassette clock while it is enabled, flipping its bit
every P_PPI_CLK_DIV reads, and answers P_PPI_PORTC; with the suggested formula the byte is as R286 lays it out. -/
def Obligations.PortTwoReadCarriesTheCassetteClock : Prop :=
  ∀ s : State, ∃ t b, exec .ppiRdc s = .next t
    ∧ t = { s with ppi := { s.ppi with clk2 := t.ppi.clk2, clkBit := t.ppi.clkBit }, result := .byte b }
    ∧ (s.ppi.portB.getLsbD s.cfg.ppiClkEnBit.val = false → t.ppi = s.ppi)
    ∧ (s.ppi.portB.getLsbD s.cfg.ppiClkEnBit.val = true →
        (s.ppi.clk2 + 1 = s.cfg.ppiClkDiv → t.ppi.clk2 = 0 ∧ t.ppi.clkBit = !s.ppi.clkBit)
        ∧ (s.ppi.clk2 + 1 ≠ s.cfg.ppiClkDiv → t.ppi.clk2 = s.ppi.clk2 + 1 ∧ t.ppi.clkBit = s.ppi.clkBit))
    ∧ (s.cfg.ppiPortC = .free → b = Config.freePortC s.ppi.portB s.cfg.ppiSw t.ppi.clkBit)
    ∧ (s.cfg.ppiPortC = .pcxt →
        (∀ n, n < 4 → b.getLsbD n = s.cfg.ppiSw.getLsbD (if s.ppi.portB.getLsbD 3 = true then n + 4 else n))
        ∧ b.getLsbD 5 = t.ppi.clkBit ∧ b.getLsbD 4 = false ∧ b.getLsbD 6 = false ∧ b.getLsbD 7 = false)

/-! ### CRTController and EGAController -/

/-- R312, R333, R336, R338 (the spec's own decisions D36, D37, D38): an index in range is stored whole. The others fault
(`FaultsAreExactlyTheListedCauses`). -/
def Obligations.IndexInRangeIsStored : Prop :=
  ∀ (p : Word16) (v : Byte) (s : State),
    (v.toNat < 0x12 → exec (.crtcWridx p v) s = .next { s with crtc := { s.crtc with index := v }, result := .none })
    ∧ (v.toNat ≤ 0x18 → exec (.egaWridx p v) s =
        .next { s with ega := { s.ega with crtc := { s.ega.crtc with index := v } }, result := .none })
    ∧ (v.toNat ≤ 5 → exec (.egaWrseqidx v) s =
        .next { s with ega := { s.ega with seqIndex := v }, result := .none })
    ∧ (v.toNat ≤ 8 → exec (.egaWrgfxidx v) s =
        .next { s with ega := { s.ega with gfxIndex := v }, result := .none })

/-- R313, R314: the data port of the plain CRTController reaches the selected register. The premise is the invariant
R320 (a). -/
def Obligations.CrtcDataPortReachesTheSelectedRegister : Prop :=
  ∀ (p : Word16) (v : Byte) (s : State) (h : s.crtc.index.toNat < 18),
    (∃ t, exec (.crtcWrdata p v) s = .next t
      ∧ t = { s with crtc := { s.crtc with reg := t.crtc.reg }, result := .none }
      ∧ ∀ j : Fin 18, t.crtc.reg[j] = if j.val = s.crtc.index.toNat then v else s.crtc.reg[j])
    ∧ exec (.crtcRddata p) s = .next { s with result := .byte (s.crtc.reg[s.crtc.index.toNat]'h) }

/-- R127, R316, R320 (c) (spec's own decision D36): status reads answer 9, 0, 8, 1 in turn, through either status port
and whatever other operations come between, none of which moves the phase. -/
def Obligations.CrtcStatusReadsCycle : Prop :=
  ∀ (p : Word16) (s : State),
    exec (.crtcRdstat p) s = .next { s with
      crtc := { s.crtc with retracePhase := s.crtc.retracePhase + 1 }
      result := .byte (#v[9#8, 0#8, 8#8, 1#8][s.crtc.retracePhase.toNat]'s.crtc.retracePhase.isLt) }
    ∧ (∀ (i : Instr) (t : State), (∀ q, i ≠ .crtcRdstat q) → exec i s = .next t →
        t.crtc.retracePhase = s.crtc.retracePhase)
    ∧ (∀ ports : List Word16, ∃ t u, runAll (ports.map .crtcRdstat) s = .next t ∧ exec (.crtcRdstat p) t = .next u
        ∧ u.crtc = { s.crtc with retracePhase := u.crtc.retracePhase }
        ∧ u.result = .byte
          (#v[9#8, 0#8, 8#8, 1#8][(s.crtc.retracePhase.toNat + ports.length) % 4]'(Nat.mod_lt _ (Nat.succ_pos 3))))
    ∧ ∀ (rounds : List (List Instr × Word16)) (last : List Instr) (t : State),
        (∀ round ∈ rounds, ∀ i ∈ round.1, ∀ q, i ≠ .crtcRdstat q) → (∀ i ∈ last, ∀ q, i ≠ .crtcRdstat q) →
        runAll (rounds.flatMap (fun round => round.1 ++ [.crtcRdstat round.2]) ++ last) s = .next t →
        ∃ u, exec (.crtcRdstat p) t = .next u ∧ u.result = .byte
          (#v[9#8, 0#8, 8#8, 1#8][(s.crtc.retracePhase.toNat + rounds.length) % 4]'(Nat.mod_lt _ (Nat.succ_pos 3)))

/-- R332, R334, R335: the data port of the EGAController reaches the wrapped registers 0 to 0x11 and its own registers
0x12 to 0x18. The premise is the invariant R351 (a). -/
def Obligations.EgaDataPortReachesTheSelectedRegister : Prop :=
  ∀ (p : Word16) (v : Byte) (s : State) (i : Nat), i = s.ega.crtc.index.toNat →
    (∀ h : i < 18,
      (∃ t, exec (.egaWrdata p v) s = .next t
        ∧ t = { s with
            ega := { s.ega with crtc := { s.ega.crtc with reg := t.ega.crtc.reg } }, result := .none }
        ∧ ∀ j : Fin 18, t.ega.crtc.reg[j] = if j.val = i then v else s.ega.crtc.reg[j])
      ∧ exec (.egaRddata p) s = .next { s with result := .byte (s.ega.crtc.reg[i]'h) })
    ∧ (∀ h : 0x12 ≤ i ∧ i ≤ 0x18,
      (∃ t, exec (.egaWrdata p v) s = .next t
        ∧ t = { s with ega := { s.ega with reg := t.ega.reg }, result := .none }
        ∧ ∀ j : Fin 7, t.ega.reg[j] = if j.val + 0x12 = i then v else s.ega.reg[j])
      ∧ exec (.egaRddata p) s = .next { s with result := .byte (s.ega.reg[i - 0x12]'(
          Nat.lt_succ_of_le (Nat.sub_le_sub_right h.2 0x12))) })

/-- R337, R339, R351 (b) (spec's own decision D38): the data ports of the two banks reach the selected register. The
premises are the invariant R351 (a). -/
def Obligations.EgaBankPortsReachTheSelectedRegister : Prop :=
  ∀ (v : Byte) (s : State),
    (∀ h : s.ega.seqIndex.toNat < 6,
      (∃ t, exec (.egaWrseq v) s = .next t
        ∧ t = { s with ega := { s.ega with seq := t.ega.seq }, result := .none }
        ∧ ∀ j : Fin 6, t.ega.seq[j] = if j.val = s.ega.seqIndex.toNat then v else s.ega.seq[j])
      ∧ exec .egaRdseq s = .next { s with result := .byte (s.ega.seq[s.ega.seqIndex.toNat]'h) })
    ∧ (∀ h : s.ega.gfxIndex.toNat < 9,
      (∃ t, exec (.egaWrgfx v) s = .next t
        ∧ t = { s with ega := { s.ega with gfx := t.ega.gfx }, result := .none }
        ∧ ∀ j : Fin 9, t.ega.gfx[j] = if j.val = s.ega.gfxIndex.toNat then v else s.ega.gfx[j])
      ∧ exec .egaRdgfx s = .next { s with result := .byte (s.ega.gfx[s.ega.gfxIndex.toNat]'h) })

/-- R341 (spec's own decision D39): a status read answers the script while it lasts, then the wrapped CRTController's
cycle. -/
def Obligations.EgaStatusReadsTheScriptThenTheCycle : Prop :=
  ∀ (p : Word16) (s : State),
    (∀ h : s.ega.test < s.cfg.egaScript.length,
      exec (.egaRdstat p) s = .next { s with
        ega := { s.ega with test := s.ega.test + 1 }, result := .byte (s.cfg.egaScript[s.ega.test]'h) })
    ∧ (s.cfg.egaScript.length ≤ s.ega.test →
      exec (.egaRdstat p) s = .next { s with
        ega := { s.ega with crtc := { s.ega.crtc with retracePhase := s.ega.crtc.retracePhase + 1 } }
        result := .byte
          (#v[9#8, 0#8, 8#8, 1#8][s.ega.crtc.retracePhase.toNat]'s.ega.crtc.retracePhase.isLt) })

/-- R343, R351 (f) (spec's own decision D41): `reset()` zeroes what the EGAController owns and leaves the wrapped
CRTController and the planes alone; the script then plays from its first byte. -/
def Obligations.EgaResetZeroesTheEgaOwnedState : Prop :=
  ∀ s : State, s.cfg.hasEga = true →
    ∃ t, exec .egaReset s = .next t ∧ t = { s with ega := t.ega, result := .none }
      ∧ t.ega.crtc = s.ega.crtc ∧ t.ega.vram = s.ega.vram
      ∧ ((∀ i : Fin 7, t.ega.reg[i] = 0) ∧ (∀ i : Fin 6, t.ega.seq[i] = 0) ∧ (∀ i : Fin 9, t.ega.gfx[i] = 0))
      ∧ (t.ega.test = 0 ∧ t.ega.seqIndex = 0 ∧ t.ega.gfxIndex = 0 ∧ t.ega.rr = 0 ∧ t.ega.lastMode = 0)
      ∧ ∀ (p : Word16) (h : 0 < s.cfg.egaScript.length),
          ∃ u, exec (.egaRdstat p) t = .next u ∧ u.result = .byte (s.cfg.egaScript[0]'h)

/-- R346, R347, R349, R351 (e) (spec's own decision D40): a write of the window stores the byte in one cell of one
plane, by the layout and the write class; the round-robin class turns to the next plane, after the video-mode byte, a
free value (log 5), has been looked at. -/
def Obligations.EgaWindowWriteStoresInOnePlane : Prop :=
  ∀ (off : Word16) (v : Byte) (s : State) (cell : Nat), cell = off.toNat % s.cfg.egaPlaneSize →
    (chained s.cfg s.ega.gfx = true →
      ∃ t, exec (.egaMemw off v) s = .next t
        ∧ t = { s with ega := { s.ega with vram := t.ega.vram }, result := .none }
        ∧ s.ega.storedOnly t.ega (BitVec.ofNat 2 (off.toNat % 2)) cell v)
    ∧ (chained s.cfg s.ega.gfx = false →
      (∀ p, writeClass s.cfg s.ega.seq = some (.single p) →
        ∃ t, exec (.egaMemw off v) s = .next t
          ∧ t = { s with ega := { s.ega with vram := t.ega.vram }, result := .none }
          ∧ s.ega.storedOnly t.ega p cell v)
      ∧ (∀ high, writeClass s.cfg s.ega.seq = some (.oddEven high) →
        ∃ t, exec (.egaMemw off v) s = .next t
          ∧ t = { s with ega := { s.ega with vram := t.ega.vram }, result := .none }
          ∧ s.ega.storedOnly t.ega (BitVec.ofNat 2 ((if high then 2 else 0) + off.toNat % 2)) cell v)
      ∧ (writeClass s.cfg s.ega.seq = some .roundRobin →
        ∃ t m p, exec (.egaMemw off v) s = .next t
          ∧ m = Config.hostMem s.cfg.egaModeByteAddr s.draws
          ∧ p = (if m = s.ega.lastMode then s.ega.rr else 0)
          ∧ t = { s with
              ega := { s.ega with vram := t.ega.vram, rr := p + 1, lastMode := m }
              result := .none, draws := s.draws + 1 }
          ∧ s.ega.storedOnly t.ega p cell v))

/-- R346, R350, R351 (c), R351 (d) (spec's own decision D40): a read of the window answers one cell of one plane and
changes nothing; a byte written in the chained layout, or in the one plane that reads look at, is read back. -/
def Obligations.EgaWindowReadAnswersOnePlane : Prop :=
  ∀ (off : Word16) (v : Byte) (s : State) (cell : Nat), cell = off.toNat % s.cfg.egaPlaneSize →
    (chained s.cfg s.ega.gfx = true →
      exec (.egaMemr off) s =
        .next { s with result := .byte ((s.ega.plane (BitVec.ofNat 2 (off.toNat % 2))).read cell) })
    ∧ (chained s.cfg s.ega.gfx = false →
      exec (.egaMemr off) s = .next { s with result := .byte ((s.ega.plane (readPlane s.cfg s.ega.gfx)).read cell) })
    ∧ (s.cfg.egaReadPlane = .readMapSelect → (readPlane s.cfg s.ega.gfx).toNat = s.ega.gfx[4].toNat % 4)
    ∧ ((∀ p, (s.ega.plane p).wf = true) →
      chained s.cfg s.ega.gfx = true ∨ writeClass s.cfg s.ega.seq = some (.single (readPlane s.cfg s.ega.gfx)) →
      ∃ t, runAll [.egaMemw off v, .egaMemr off] s = .next t ∧ t.result = .byte v)

/-! ### ExpandedMemory -/

/-- R434: the store offset of a window address, exact; while its selector is below 128 it lies in the store, and an
access reaches that byte, a write that byte alone (R435, R437); any window address that translates there reads the byte
written. -/
def Obligations.EmsWindowAccessReachesTheTranslatedByte : Prop :=
  ∀ (a : Addr) (v : Byte) (s : State) (off sel phys : Nat), inEmsWindow s.cfg a = true →
    off = a.toNat - s.cfg.emsBase → sel = (s.ems.selector (BitVec.ofNat 2 (off / 16384))).toNat →
    phys = sel * 16384 + off % 16384 →
    (s.cfg.emsOob = .fault → s.ems.translate s.cfg a = phys)
    ∧ (sel < 128 → phys < 2097152
        ∧ exec (.emsMemr a) s = .next { s with result := .byte (s.ems.store.read phys) }
        ∧ ∃ t, exec (.emsMemw a v) s = .next t ∧ t = { s with ems := t.ems, result := .none }
            ∧ s.ems.storedOnly t.ems phys v
            ∧ (s.ems.store.wf = true → ∀ b : Addr, inEmsWindow s.cfg b = true → t.ems.translate t.cfg b = phys →
                exec (.emsMemr b) t = .next { t with result := .byte v }))

/-- R436, P_EMS_OOB (spec's own decision D51): through a selector of 128 or more an access faults, or reaches the byte
that the selector's low seven bits name. -/
def Obligations.EmsSelectorBeyondTheStoreFaultsOrWraps : Prop :=
  ∀ (a : Addr) (v : Byte) (s : State) (off sel phys : Nat), inEmsWindow s.cfg a = true →
    off = a.toNat - s.cfg.emsBase → sel = (s.ems.selector (BitVec.ofNat 2 (off / 16384))).toNat → 128 ≤ sel →
    phys = (sel - 128) * 16384 + off % 16384 →
    (s.cfg.emsOob = .fault →
      exec (.emsMemr a) s = .fault (.hardwareProtocolViolation .emsSelector)
      ∧ exec (.emsMemw a v) s = .fault (.hardwareProtocolViolation .emsSelector))
    ∧ (s.cfg.emsOob = .mask →
      exec (.emsMemr a) s = .next { s with result := .byte (s.ems.store.read phys) }
      ∧ ∃ t, exec (.emsMemw a v) s = .next t ∧ t = { s with ems := t.ems, result := .none }
          ∧ s.ems.storedOnly t.ems phys v)

/-! ### FloppyController -/

/-- R382, R395, R399 (the spec's own decisions D42, D46): the digital-output register is stored, its enable bit clear
re-initialises the controller, its rise requests line 6; the host's init() re-initialises and requests nothing. -/
def Obligations.FloppyEnableBitResetsTheController : Prop :=
  ∀ (v : Byte) (s : State),
    (∃ t, exec (.fdcWrdor v) s = .next t
      ∧ t = { s with fdc := t.fdc, pic := { s.pic with irr := t.pic.irr }, result := .none }
      ∧ (v.getLsbD 2 = true → t.fdc = { s.fdc with outputReg := v })
      ∧ (v.getLsbD 2 = false → Fdc.initialised s.cfg { s.fdc with outputReg := v } t.fdc)
      ∧ ∀ n, n < 8 → t.pic.irr.getLsbD n =
          (s.pic.irr.getLsbD n || (n == 6 && !s.fdc.outputReg.getLsbD 2 && v.getLsbD 2)))
    ∧ ∃ t, exec .fdcInit s = .next t ∧ t = { s with fdc := t.fdc, result := .none } ∧ Fdc.initialised s.cfg s.fdc t.fdc

/-- R385, R388, R393, R400 (d) (the spec's own decisions D43, D48, D50): a byte at the data port is dropped while a
result is unread, appended while the command is short, and ends a command that has no effect when its length is
reached. What the three commands with an effect do is said of the commands below. The premise on the cursor is the
invariant R400 (a). -/
def Obligations.FloppyDataWriteAppendsUntilTheLength : Prop :=
  ∀ (v : Byte) (s : State),
    (s.fdc.status ≠ s.cfg.fdcMsrIdle → exec (.fdcWrdata v) s = .next { s with result := .none })
    ∧ ∀ (h : s.fdc.wr < 9) (buf : Vector Byte 9) (op : BitVec 5), s.fdc.status = s.cfg.fdcMsrIdle →
        buf = s.fdc.buf.set s.fdc.wr v h → op = buf[0].extractLsb' 0 5 →
        (s.fdc.wr + 1 < s.cfg.fdcCbReq[op.toNat]'op.isLt → exec (.fdcWrdata v) s =
          .next { s with fdc := { s.fdc with buf := buf, wr := s.fdc.wr + 1 }, result := .none })
        ∧ (s.cfg.fdcCbReq[op.toNat]'op.isLt ≤ s.fdc.wr + 1 → op ≠ 0x07 → op ≠ 0x08 → op ≠ 0x0F →
          exec (.fdcWrdata v) s = .next { s with fdc := { s.fdc with buf := buf, wr := 0, rd := 0 }, result := .none })

/-- R140, R144: a floppy command is its bytes written to the data port in order. That the model performs it in one step
is log 22. -/
def Obligations.FloppyCommandIsItsBytesInOrder : Prop :=
  ∀ (b0 : Byte) (ps : List Byte) (i : Instr) (s : State), fdcCommand b0 ps = some i →
    exec i s = runAll ((b0 :: ps).map .fdcWrdata) s

/-- R394 (spec's own decision D50): a read of the data port answers the next result byte, the last one ends the result;
with no result it answers a free byte and changes nothing else. The premise on the cursor is the invariant R400 (a). -/
def Obligations.FloppyDataReadDrainsTheResult : Prop :=
  ∀ s : State,
    (s.fdc.status = s.cfg.fdcMsrIdle →
      exec .fdcRddata s = .next { s with result := .byte (Config.draw s.draws), draws := s.draws + 1 })
    ∧ ∀ h : s.fdc.rd < 9, s.fdc.status ≠ s.cfg.fdcMsrIdle →
        (s.fdc.rd + 1 = s.fdc.wr → exec .fdcRddata s = .next { s with
          fdc := { s.fdc with wr := 0, rd := 0, status := s.cfg.fdcMsrIdle }
          result := .byte (s.fdc.buf[s.fdc.rd]'h) })
        ∧ (s.fdc.rd + 1 ≠ s.fdc.wr → exec .fdcRddata s = .next { s with
          fdc := { s.fdc with rd := s.fdc.rd + 1 }, result := .byte (s.fdc.buf[s.fdc.rd]'h) })

/-- R389, R390, R396, R399 (the spec's own decisions D45, D47, D49): RECALIBRATE, entered when no command is under way,
puts the addressed drive on cylinder 0, remembers the status for SENSE_INTERRUPT, leaves no result and requests line 6;
for an absent drive it is refused. -/
def Obligations.RecalibrateReturnsTheDriveToCylinderZero : Prop :=
  ∀ (opt : BitVec 3) (drive : Byte) (s : State) (d : BitVec 2), d.toNat = drive.toNat % 4 →
    s.fdc.status = s.cfg.fdcMsrIdle → s.fdc.wr = 0 → s.cfg.fdcCbReq[0x07] = 2 →
    (s.cfg.fdcPresent[d.toNat]'d.isLt = true →
      ∃ t, exec (.fdcRecalibrate opt drive) s = .next t
        ∧ t = { s with fdc := t.fdc, pic := { s.pic with irr := t.pic.irr }, result := .none }
        ∧ t.fdc = { s.fdc with
            buf := (s.fdc.buf.set 0 (opt ++ 0x07#5)).set 1 drive
            wr := 0, rd := 0, currentDrive := d, drive := t.fdc.drive }
        ∧ t.fdc.driveAt d = { s.fdc.driveAt d with
            cylinderPos := 0, seekTarget := 0, resultCode := s.cfg.fdcStSeekEnd ||| s.cfg.fdcStTrack0 }
        ∧ (∀ e, e ≠ d → t.fdc.driveAt e = s.fdc.driveAt e)
        ∧ ∀ n, n < 8 → t.pic.irr.getLsbD n = (s.pic.irr.getLsbD n || n == 6))
    ∧ (s.cfg.fdcPresent[d.toNat]'d.isLt = false → exec (.fdcRecalibrate opt drive) s = .refused .driveAbsent)

/-- R391, R394 (the spec's own decisions D44, D45): SENSE_INTERRUPT, entered when no command is under way, makes a
result of two bytes of the current drive's status and cylinder and turns to the next drive; two reads of the data port
return them and end the result. -/
def Obligations.SenseInterruptReportsTheCurrentDrive : Prop :=
  ∀ (opt : BitVec 3) (s : State) (d : Drive), d = s.fdc.driveAt s.fdc.currentDrive → s.cfg.wf = true →
    s.fdc.status = s.cfg.fdcMsrIdle → s.fdc.wr = 0 →
    ∃ t u w, exec (.fdcSenseInterrupt opt) s = .next t
      ∧ t = { s with
          fdc := { s.fdc with
            buf := (s.fdc.buf.set 0 d.resultCode).set 1 (BitVec.ofNat 8 d.cylinderPos)
            wr := 2, rd := 0, status := s.cfg.fdcMsrIdle ||| s.cfg.fdcMsrResult
            currentDrive := s.fdc.currentDrive + 1 }
          result := .none }
      ∧ exec .fdcRddata t = .next u ∧ u.result = .byte d.resultCode
      ∧ exec .fdcRddata u = .next w ∧ w.result = .byte (BitVec.ofNat 8 d.cylinderPos)
      ∧ w.fdc.status = s.cfg.fdcMsrIdle ∧ w.fdc.wr = 0 ∧ w.fdc.rd = 0

/-- R389, R392, R396, R399, R400 (f), R400 (g) (the spec's own decisions D45, D47, D49): SEEK, entered when no command
is under way, moves the addressed drive by the difference of targets, clamped to its cylinders, remembers the target,
and requests line 6; a drive on its target ends on the requested cylinder or the last one. For an absent drive it is
refused. -/
def Obligations.SeekMovesByTheDifferenceOfTargets : Prop :=
  ∀ (opt : BitVec 3) (drive cylinder : Byte) (s : State) (d : BitVec 2), d.toNat = drive.toNat % 4 →
    s.fdc.status = s.cfg.fdcMsrIdle → s.fdc.wr = 0 → s.cfg.fdcCbReq[0x0F] = 3 →
    (s.cfg.fdcPresent[d.toNat]'d.isLt = true →
      ∃ t pos, exec (.fdcSeek opt drive cylinder) s = .next t
        ∧ t = { s with fdc := t.fdc, pic := { s.pic with irr := t.pic.irr }, result := .none }
        ∧ t.fdc = { s.fdc with
            buf := ((s.fdc.buf.set 0 (opt ++ 0x0F#5)).set 1 drive).set 2 cylinder
            wr := 0, rd := 0, currentDrive := d, drive := t.fdc.drive }
        ∧ t.fdc.driveAt d = { s.fdc.driveAt d with
            cylinderPos := pos, seekTarget := cylinder
            resultCode := if pos = 0 then s.cfg.fdcStSeekEnd ||| s.cfg.fdcStTrack0 else s.cfg.fdcStSeekEnd }
        ∧ (pos : Int) = max 0 (min ((s.fdc.driveAt d).cylinderPos
            + ((cylinder.toNat : Int) - (s.fdc.driveAt d).seekTarget.toNat)) ((s.fdc.driveAt d).cylinders - 1))
        ∧ ((s.fdc.driveAt d).cylinderPos = (s.fdc.driveAt d).seekTarget.toNat →
            pos = min cylinder.toNat ((s.fdc.driveAt d).cylinders - 1))
        ∧ (∀ e, e ≠ d → t.fdc.driveAt e = s.fdc.driveAt e)
        ∧ ∀ n, n < 8 → t.pic.irr.getLsbD n = (s.pic.irr.getLsbD n || n == 6))
    ∧ (s.cfg.fdcPresent[d.toNat]'d.isLt = false → exec (.fdcSeek opt drive cylinder) s = .refused .driveAbsent)

/-- R393 (spec's own decision D48): a command without an effect, entered when no command is under way, leaves its bytes
in the buffer and nothing else: no result, no request, no drive moved. -/
def Obligations.UnimplementedFloppyCommandsAreCountedAndDropped : Prop :=
  ∀ (i : Instr) (opt : BitVec 3) (b0 : Byte) (ps : List Byte) (s : State),
    i = .fdcReadTrack opt ps ∨ i = .fdcSpecify opt ps ∨ i = .fdcSenseDriveStatus opt ps ∨ i = .fdcWriteData opt ps
      ∨ i = .fdcReadData opt ps ∨ i = .fdcWriteDeletedData opt ps ∨ i = .fdcReadId opt ps
      ∨ i = .fdcReadDeletedData opt ps ∨ i = .fdcFormatTrack opt ps ∨ i = .fdcScanEqual opt ps
      ∨ i = .fdcScanLowOrEqual opt ps ∨ i = .fdcScanHighOrEqual opt ps ∨ i = .fdcInvalid b0 ps →
    encode i = .fdcCmd (b0 :: ps) → i.wf = true → i.when s.ctx = true →
    s.fdc.status = s.cfg.fdcMsrIdle → s.fdc.wr = 0 →
    ∃ t, exec i s = .next t
      ∧ t = { s with fdc := { s.fdc with buf := t.fdc.buf, wr := 0, rd := 0 }, result := .none }
      ∧ ∀ j : Fin 9, t.fdc.buf[j] = ((b0 :: ps)[j.val]?).getD s.fdc.buf[j]

end
end

