-- ==== Sys2Proof/Laws/Decode.lean ====
section
/-! SUPPORT. The fields of the words that `encode` writes, and the words as their fields determine them: what proofs
about decoding cite in place of unfolding the words. -/

namespace Sys2Proof

/-! ### Fields of the operation words (R111) and of a floppy opcode byte (R130) -/

@[simp] theorem inWord_kind (p : Word16) : (inWord p).extractLsb' 28 4 = 0 := by
  show BitVec.extractLsb' 28 4 (0x00#8 ++ p ++ 0x00#8 : BitVec (8 + 16 + 8)) = 0
  ext i hi
  simp only [BitVec.getElem_extractLsb', BitVec.getLsbD_append]
  have h : i = 0 ∨ i = 1 ∨ i = 2 ∨ i = 3 := by omega
  rcases h with h|h|h|h <;> subst h <;> simp

@[simp] theorem inWord_zero (p : Word16) : (inWord p).extractLsb' 24 4 = 0 := by
  show BitVec.extractLsb' 24 4 (0x00#8 ++ p ++ 0x00#8 : BitVec (8 + 16 + 8)) = 0
  ext i hi
  simp only [BitVec.getElem_extractLsb', BitVec.getLsbD_append]
  have h : i = 0 ∨ i = 1 ∨ i = 2 ∨ i = 3 := by omega
  rcases h with h|h|h|h <;> subst h <;> simp

@[simp] theorem inWord_port (p : Word16) : (inWord p).extractLsb' 8 16 = p := by
  show BitVec.extractLsb' 8 16 (0x00#8 ++ p ++ 0x00#8 : BitVec (8 + 16 + 8)) = p
  ext i hi
  simp only [BitVec.getElem_extractLsb', BitVec.getLsbD_append]
  simp [hi]

@[simp] theorem inWord_low (p : Word16) : (inWord p).extractLsb' 0 8 = 0 := by
  show BitVec.extractLsb' 0 8 (0x00#8 ++ p ++ 0x00#8 : BitVec (8 + 16 + 8)) = 0
  ext i hi
  simp only [BitVec.getElem_extractLsb', BitVec.getLsbD_append]
  simp [hi]

@[simp] theorem outWord_kind (p : Word16) (v : Byte) : (outWord p v).extractLsb' 28 4 = 1 := by
  show BitVec.extractLsb' 28 4 (0x10#8 ++ p ++ v : BitVec (8 + 16 + 8)) = 1
  ext i hi
  simp only [BitVec.getElem_extractLsb', BitVec.getLsbD_append]
  have h : i = 0 ∨ i = 1 ∨ i = 2 ∨ i = 3 := by omega
  rcases h with h|h|h|h <;> subst h <;> simp

@[simp] theorem outWord_zero (p : Word16) (v : Byte) : (outWord p v).extractLsb' 24 4 = 0 := by
  show BitVec.extractLsb' 24 4 (0x10#8 ++ p ++ v : BitVec (8 + 16 + 8)) = 0
  ext i hi
  simp only [BitVec.getElem_extractLsb', BitVec.getLsbD_append]
  have h : i = 0 ∨ i = 1 ∨ i = 2 ∨ i = 3 := by omega
  rcases h with h|h|h|h <;> subst h <;> simp

@[simp] theorem outWord_port (p : Word16) (v : Byte) : (outWord p v).extractLsb' 8 16 = p := by
  show BitVec.extractLsb' 8 16 (0x10#8 ++ p ++ v : BitVec (8 + 16 + 8)) = p
  ext i hi
  simp only [BitVec.getElem_extractLsb', BitVec.getLsbD_append]
  simp [hi]

@[simp] theorem outWord_value (p : Word16) (v : Byte) : (outWord p v).extractLsb' 0 8 = v := by
  show BitVec.extractLsb' 0 8 (0x10#8 ++ p ++ v : BitVec (8 + 16 + 8)) = v
  ext i hi
  simp only [BitVec.getElem_extractLsb', BitVec.getLsbD_append]
  simp [hi]

@[simp] theorem memrWord_kind (a : Addr) : (memrWord a).extractLsb' 28 4 = 2 := by
  show BitVec.extractLsb' 28 4 (0x2#4 ++ a ++ 0x00#8 : BitVec (4 + 20 + 8)) = 2
  ext i hi
  simp only [BitVec.getElem_extractLsb', BitVec.getLsbD_append]
  have h : i = 0 ∨ i = 1 ∨ i = 2 ∨ i = 3 := by omega
  rcases h with h|h|h|h <;> subst h <;> simp

@[simp] theorem memrWord_addr (a : Addr) : (memrWord a).extractLsb' 8 20 = a := by
  show BitVec.extractLsb' 8 20 (0x2#4 ++ a ++ 0x00#8 : BitVec (4 + 20 + 8)) = a
  ext i hi
  simp only [BitVec.getElem_extractLsb', BitVec.getLsbD_append]
  simp [hi]

@[simp] theorem memrWord_low (a : Addr) : (memrWord a).extractLsb' 0 8 = 0 := by
  show BitVec.extractLsb' 0 8 (0x2#4 ++ a ++ 0x00#8 : BitVec (4 + 20 + 8)) = 0
  ext i hi
  simp only [BitVec.getElem_extractLsb', BitVec.getLsbD_append]
  simp [hi]

@[simp] theorem memwWord_kind (a : Addr) (v : Byte) : (memwWord a v).extractLsb' 28 4 = 3 := by
  show BitVec.extractLsb' 28 4 (0x3#4 ++ a ++ v : BitVec (4 + 20 + 8)) = 3
  ext i hi
  simp only [BitVec.getElem_extractLsb', BitVec.getLsbD_append]
  have h : i = 0 ∨ i = 1 ∨ i = 2 ∨ i = 3 := by omega
  rcases h with h|h|h|h <;> subst h <;> simp

@[simp] theorem memwWord_addr (a : Addr) (v : Byte) : (memwWord a v).extractLsb' 8 20 = a := by
  show BitVec.extractLsb' 8 20 (0x3#4 ++ a ++ v : BitVec (4 + 20 + 8)) = a
  ext i hi
  simp only [BitVec.getElem_extractLsb', BitVec.getLsbD_append]
  simp [hi]

@[simp] theorem memwWord_value (a : Addr) (v : Byte) : (memwWord a v).extractLsb' 0 8 = v := by
  show BitVec.extractLsb' 0 8 (0x3#4 ++ a ++ v : BitVec (4 + 20 + 8)) = v
  ext i hi
  simp only [BitVec.getElem_extractLsb', BitVec.getLsbD_append]
  simp [hi]

@[simp] theorem callWord_kind (fn : BitVec 4) (arg : Word16) : (callWord fn arg).extractLsb' 28 4 = 4 := by
  show BitVec.extractLsb' 28 4 (0x4#4 ++ fn ++ 0x00#8 ++ arg : BitVec (4 + 4 + 8 + 16)) = 4
  ext i hi
  simp only [BitVec.getElem_extractLsb', BitVec.getLsbD_append]
  have h : i = 0 ∨ i = 1 ∨ i = 2 ∨ i = 3 := by omega
  rcases h with h|h|h|h <;> subst h <;> simp

@[simp] theorem callWord_function (fn : BitVec 4) (arg : Word16) : (callWord fn arg).extractLsb' 24 4 = fn := by
  show BitVec.extractLsb' 24 4 (0x4#4 ++ fn ++ 0x00#8 ++ arg : BitVec (4 + 4 + 8 + 16)) = fn
  ext i hi
  simp only [BitVec.getElem_extractLsb', BitVec.getLsbD_append]
  have h : i = 0 ∨ i = 1 ∨ i = 2 ∨ i = 3 := by omega
  rcases h with h|h|h|h <;> subst h <;> simp

@[simp] theorem callWord_zero (fn : BitVec 4) (arg : Word16) : (callWord fn arg).extractLsb' 16 8 = 0 := by
  show BitVec.extractLsb' 16 8 (0x4#4 ++ fn ++ 0x00#8 ++ arg : BitVec (4 + 4 + 8 + 16)) = 0
  ext i hi
  simp only [BitVec.getElem_extractLsb', BitVec.getLsbD_append]
  have h : i = 0 ∨ i = 1 ∨ i = 2 ∨ i = 3 ∨ i = 4 ∨ i = 5 ∨ i = 6 ∨ i = 7 := by omega
  rcases h with h|h|h|h|h|h|h|h <;> subst h <;> simp

@[simp] theorem callWord_argument (fn : BitVec 4) (arg : Word16) : (callWord fn arg).extractLsb' 0 16 = arg := by
  show BitVec.extractLsb' 0 16 (0x4#4 ++ fn ++ 0x00#8 ++ arg : BitVec (4 + 4 + 8 + 16)) = arg
  ext i hi
  simp only [BitVec.getElem_extractLsb', BitVec.getLsbD_append]
  simp [hi]

@[simp] theorem eventWord_kind (n : Byte) : (eventWord n).extractLsb' 28 4 = 5 := by
  show BitVec.extractLsb' 28 4 (0x500000#24 ++ n : BitVec (24 + 8)) = 5
  ext i hi
  simp only [BitVec.getElem_extractLsb', BitVec.getLsbD_append]
  have h : i = 0 ∨ i = 1 ∨ i = 2 ∨ i = 3 := by omega
  rcases h with h|h|h|h <;> subst h <;> simp

@[simp] theorem eventWord_zero (n : Byte) : (eventWord n).extractLsb' 8 20 = 0 := by
  show BitVec.extractLsb' 8 20 (0x500000#24 ++ n : BitVec (24 + 8)) = 0
  ext i hi
  simp only [BitVec.getElem_extractLsb', BitVec.getLsbD_append]
  have h : i = 0 ∨ i = 1 ∨ i = 2 ∨ i = 3 ∨ i = 4 ∨ i = 5 ∨ i = 6 ∨ i = 7 ∨ i = 8 ∨ i = 9 ∨ i = 10 ∨ i = 11 ∨ i = 12 ∨ i = 13 ∨ i = 14 ∨ i = 15 ∨ i = 16 ∨ i = 17 ∨ i = 18 ∨ i = 19 := by omega
  rcases h with h|h|h|h|h|h|h|h|h|h|h|h|h|h|h|h|h|h|h|h <;> subst h <;> simp

@[simp] theorem eventWord_number (n : Byte) : (eventWord n).extractLsb' 0 8 = n := by
  show BitVec.extractLsb' 0 8 (0x500000#24 ++ n : BitVec (24 + 8)) = n
  ext i hi
  simp only [BitVec.getElem_extractLsb', BitVec.getLsbD_append]
  simp [hi]

@[simp] theorem fdcByte0_opcode (opt : BitVec 3) (op : BitVec 5) : fdcOpcode (fdcByte0 opt op) = op := by
  show BitVec.extractLsb' 0 5 (opt ++ op : BitVec (3 + 5)) = op
  ext i hi
  simp only [BitVec.getElem_extractLsb', BitVec.getLsbD_append]
  simp [hi]

@[simp] theorem fdcByte0_options (opt : BitVec 3) (op : BitVec 5) : (fdcByte0 opt op).extractLsb' 5 3 = opt := by
  show BitVec.extractLsb' 5 3 (opt ++ op : BitVec (3 + 5)) = opt
  ext i hi
  simp only [BitVec.getElem_extractLsb', BitVec.getLsbD_append]
  simp [hi]

/-! ### A word is what its fields say -/

theorem word_of_port_fields (w : OpWord) :
    w = (w.extractLsb' 28 4 ++ w.extractLsb' 24 4 ++ w.extractLsb' 8 16 ++ w.extractLsb' 0 8 :
      BitVec (4 + 4 + 16 + 8)) := by
  apply BitVec.eq_of_getLsbD_eq
  intro i hi
  simp only [BitVec.getLsbD_append, BitVec.getLsbD_extractLsb']
  have a2 : i - 8 < 16 ↔ i < 24 := by omega
  have a3 : i - 8 - 16 < 4 ↔ i < 28 := by omega
  have a4 : i - 8 - 16 - 4 < 4 := by omega
  by_cases b1 : i < 8
  · simp [b1]
  · by_cases b2 : i < 24
    · have : 8 + (i - 8) = i := by omega
      simp [b1, a2, b2, this]
    · by_cases b3 : i < 28
      · have : 24 + (i - 8 - 16) = i := by omega
        simp only [b1, a2, b2, a3, b3, this]; simp
      · have : 28 + (i - 8 - 16 - 4) = i := by omega
        simp only [b1, a2, b2, a3, b3, a4, this]; simp

theorem word_of_memory_fields (w : OpWord) :
    w = (w.extractLsb' 28 4 ++ w.extractLsb' 8 20 ++ w.extractLsb' 0 8 : BitVec (4 + 20 + 8)) := by
  apply BitVec.eq_of_getLsbD_eq
  intro i hi
  simp only [BitVec.getLsbD_append, BitVec.getLsbD_extractLsb']
  have a2 : i - 8 < 20 ↔ i < 28 := by omega
  have a4 : i - 8 - 20 < 4 := by omega
  by_cases b1 : i < 8
  · simp [b1]
  · by_cases b2 : i < 28
    · have : 8 + (i - 8) = i := by omega
      simp [b1, a2, b2, this]
    · have : 28 + (i - 8 - 20) = i := by omega
      simp only [b1, a2, b2, a4, this]; simp

theorem word_of_call_fields (w : OpWord) :
    w = (w.extractLsb' 28 4 ++ w.extractLsb' 24 4 ++ w.extractLsb' 16 8 ++ w.extractLsb' 0 16 :
      BitVec (4 + 4 + 8 + 16)) := by
  apply BitVec.eq_of_getLsbD_eq
  intro i hi
  simp only [BitVec.getLsbD_append, BitVec.getLsbD_extractLsb']
  have a2 : i - 16 < 8 ↔ i < 24 := by omega
  have a3 : i - 16 - 8 < 4 ↔ i < 28 := by omega
  have a4 : i - 16 - 8 - 4 < 4 := by omega
  by_cases b1 : i < 16
  · simp [b1]
  · by_cases b2 : i < 24
    · have : 16 + (i - 16) = i := by omega
      simp [b1, a2, b2, this]
    · by_cases b3 : i < 28
      · have : 24 + (i - 16 - 8) = i := by omega
        simp only [b1, a2, b2, a3, b3, this]; simp
      · have : 28 + (i - 16 - 8 - 4) = i := by omega
        simp only [b1, a2, b2, a3, b3, a4, this]; simp

theorem eq_inWord {w : OpWord} (hk : w.extractLsb' 28 4 = 0) (hz : w.extractLsb' 24 4 = 0)
    (hl : w.extractLsb' 0 8 = 0) : inWord (w.extractLsb' 8 16) = w := by
  conv_rhs => rw [word_of_port_fields w, hk, hz, hl]
  rfl

theorem eq_outWord {w : OpWord} (hk : w.extractLsb' 28 4 = 1) (hz : w.extractLsb' 24 4 = 0) :
    outWord (w.extractLsb' 8 16) (w.extractLsb' 0 8) = w := by
  conv_rhs => rw [word_of_port_fields w, hk, hz]
  rfl

theorem eq_memrWord {w : OpWord} (hk : w.extractLsb' 28 4 = 2) (hl : w.extractLsb' 0 8 = 0) :
    memrWord (w.extractLsb' 8 20) = w := by
  conv_rhs => rw [word_of_memory_fields w, hk, hl]
  rfl

theorem eq_memwWord {w : OpWord} (hk : w.extractLsb' 28 4 = 3) :
    memwWord (w.extractLsb' 8 20) (w.extractLsb' 0 8) = w := by
  conv_rhs => rw [word_of_memory_fields w, hk]
  rfl

theorem eq_callWord {w : OpWord} (hk : w.extractLsb' 28 4 = 4) (hz : w.extractLsb' 16 8 = 0) :
    callWord (w.extractLsb' 24 4) (w.extractLsb' 0 16) = w := by
  conv_rhs => rw [word_of_call_fields w, hk, hz]
  rfl

theorem eq_eventWord {w : OpWord} (hk : w.extractLsb' 28 4 = 5) (hz : w.extractLsb' 8 20 = 0) :
    eventWord (w.extractLsb' 0 8) = w := by
  conv_rhs => rw [word_of_memory_fields w, hk, hz]
  rfl

theorem eq_fdcByte0 (b0 : Byte) : fdcByte0 (b0.extractLsb' 5 3) (fdcOpcode b0) = b0 := by
  show (b0.extractLsb' 5 3 ++ b0.extractLsb' 0 5 : BitVec (3 + 5)) = b0
  apply BitVec.eq_of_getLsbD_eq
  intro i hi
  simp only [BitVec.getLsbD_append, BitVec.getLsbD_extractLsb']
  by_cases b1 : i < 5
  · simp [b1]
  · have a2 : i - 5 < 3 := by omega
    have : 5 + (i - 5) = i := by omega
    simp only [b1, a2, this]; simp

/-! ### The decoder on those words -/

theorem decodeWord_in (c : Ctx) (p) : decodeWord c (inWord p) = decodeIn c p := by
  simp [decodeWord]
theorem decodeWord_out (c : Ctx) (p v) : decodeWord c (outWord p v) = decodeOut c p v := by
  simp [decodeWord]
theorem decodeWord_memr (c : Ctx) (a) : decodeWord c (memrWord a) = decodeMemRead c.cfg a := by
  simp [decodeWord]
theorem decodeWord_memw (c : Ctx) (a v) : decodeWord c (memwWord a v) = decodeMemWrite c.cfg a v := by
  simp [decodeWord]
theorem decodeWord_call (c : Ctx) (a v) : decodeWord c (callWord a v) = decodeCall a v := by
  simp [decodeWord]
theorem decodeWord_event (c : Ctx) (n) : decodeWord c (eventWord n) = decodeEvent n := by
  simp [decodeWord]

/-- The EGA window is the addresses 0xA0000 and an offset of 16 bits. -/
theorem inEgaWindow_append (off : Word16) : inEgaWindow (0xA#4 ++ off) = true := by
  have h : (0xA#4 ++ off).toNat = 0xA0000 + off.toNat := by
    rw [BitVec.toNat_append, ← Nat.shiftLeft_add_eq_or_of_lt off.isLt]
    rfl
  have := off.isLt
  simp only [inEgaWindow, egaWindowHas, h, Bool.and_eq_true, decide_eq_true_eq]
  omega

theorem offset_append (off : Word16) : (0xA#4 ++ off : BitVec (4+16)).extractLsb' 0 16 = off := by
  ext i hi
  simp only [BitVec.getElem_extractLsb', BitVec.getLsbD_append]; simp [hi]

/-- The ports of a chip, as ranges of numbers (R81). -/
theorem connected_iff (chip : Chip) (p : Word16) : connected chip p = true ↔
    match chip with
    | .dma => p.toNat ≤ 0x08
    | .pic => 0x20 ≤ p.toNat ∧ p.toNat ≤ 0x21
    | .pit => 0x40 ≤ p.toNat ∧ p.toNat ≤ 0x43
    | .ppi => 0x60 ≤ p.toNat ∧ p.toNat ≤ 0x63
    | .ems => 0x260 ≤ p.toNat ∧ p.toNat ≤ 0x263
    | .fdc => 0x3F0 ≤ p.toNat ∧ p.toNat ≤ 0x3F7
    | .crtc => (0x3B0 ≤ p.toNat ∧ p.toNat ≤ 0x3BB) ∨ (0x3D0 ≤ p.toNat ∧ p.toNat ≤ 0x3DC)
    | .ega => (0x3B0 ≤ p.toNat ∧ p.toNat ≤ 0x3BB) ∨ (0x3D0 ≤ p.toNat ∧ p.toNat ≤ 0x3DC) ∨ p.toNat = 0x3C2
        ∨ p.toNat = 0x3C4 ∨ p.toNat = 0x3C5 ∨ p.toNat = 0x3CE ∨ p.toNat = 0x3CF := by
  cases chip <;>
    simp only [connected, inCrtcRange, Bool.or_eq_true, Bool.and_eq_true, decide_eq_true_eq, beq_iff_eq,
      ← BitVec.toNat_inj, or_assoc]
  all_goals rfl

end Sys2Proof
end

