-- ==== Sys2Proof/Laws/State.lean ====
section
/-! SUPPORT. What each update of the state leaves in each field: one lemma per field per update, so that no proof unfolds
a record update. -/

namespace Sys2Proof.Machine

@[simp] theorem State.setPic_cfg (s : State) (x : Pic) : (s.setPic x).cfg = s.cfg := rfl
@[simp] theorem State.setPic_pic (s : State) (x : Pic) : (s.setPic x).pic = x := rfl
@[simp] theorem State.setPic_dma (s : State) (x : Pic) : (s.setPic x).dma = s.dma := rfl
@[simp] theorem State.setPic_pit (s : State) (x : Pic) : (s.setPic x).pit = s.pit := rfl
@[simp] theorem State.setPic_ppi (s : State) (x : Pic) : (s.setPic x).ppi = s.ppi := rfl
@[simp] theorem State.setPic_crtc (s : State) (x : Pic) : (s.setPic x).crtc = s.crtc := rfl
@[simp] theorem State.setPic_ega (s : State) (x : Pic) : (s.setPic x).ega = s.ega := rfl
@[simp] theorem State.setPic_fdc (s : State) (x : Pic) : (s.setPic x).fdc = s.fdc := rfl
@[simp] theorem State.setPic_ems (s : State) (x : Pic) : (s.setPic x).ems = s.ems := rfl
@[simp] theorem State.setPic_requests (s : State) (x : Pic) : (s.setPic x).requests = s.requests := rfl
@[simp] theorem State.setPic_result (s : State) (x : Pic) : (s.setPic x).result = s.result := rfl
@[simp] theorem State.setPic_draws (s : State) (x : Pic) : (s.setPic x).draws = s.draws := rfl

@[simp] theorem State.setDma_cfg (s : State) (x : Dma) : (s.setDma x).cfg = s.cfg := rfl
@[simp] theorem State.setDma_pic (s : State) (x : Dma) : (s.setDma x).pic = s.pic := rfl
@[simp] theorem State.setDma_dma (s : State) (x : Dma) : (s.setDma x).dma = x := rfl
@[simp] theorem State.setDma_pit (s : State) (x : Dma) : (s.setDma x).pit = s.pit := rfl
@[simp] theorem State.setDma_ppi (s : State) (x : Dma) : (s.setDma x).ppi = s.ppi := rfl
@[simp] theorem State.setDma_crtc (s : State) (x : Dma) : (s.setDma x).crtc = s.crtc := rfl
@[simp] theorem State.setDma_ega (s : State) (x : Dma) : (s.setDma x).ega = s.ega := rfl
@[simp] theorem State.setDma_fdc (s : State) (x : Dma) : (s.setDma x).fdc = s.fdc := rfl
@[simp] theorem State.setDma_ems (s : State) (x : Dma) : (s.setDma x).ems = s.ems := rfl
@[simp] theorem State.setDma_requests (s : State) (x : Dma) : (s.setDma x).requests = s.requests := rfl
@[simp] theorem State.setDma_result (s : State) (x : Dma) : (s.setDma x).result = s.result := rfl
@[simp] theorem State.setDma_draws (s : State) (x : Dma) : (s.setDma x).draws = s.draws := rfl

@[simp] theorem State.setPit_cfg (s : State) (x : Pit) : (s.setPit x).cfg = s.cfg := rfl
@[simp] theorem State.setPit_pic (s : State) (x : Pit) : (s.setPit x).pic = s.pic := rfl
@[simp] theorem State.setPit_dma (s : State) (x : Pit) : (s.setPit x).dma = s.dma := rfl
@[simp] theorem State.setPit_pit (s : State) (x : Pit) : (s.setPit x).pit = x := rfl
@[simp] theorem State.setPit_ppi (s : State) (x : Pit) : (s.setPit x).ppi = s.ppi := rfl
@[simp] theorem State.setPit_crtc (s : State) (x : Pit) : (s.setPit x).crtc = s.crtc := rfl
@[simp] theorem State.setPit_ega (s : State) (x : Pit) : (s.setPit x).ega = s.ega := rfl
@[simp] theorem State.setPit_fdc (s : State) (x : Pit) : (s.setPit x).fdc = s.fdc := rfl
@[simp] theorem State.setPit_ems (s : State) (x : Pit) : (s.setPit x).ems = s.ems := rfl
@[simp] theorem State.setPit_requests (s : State) (x : Pit) : (s.setPit x).requests = s.requests := rfl
@[simp] theorem State.setPit_result (s : State) (x : Pit) : (s.setPit x).result = s.result := rfl
@[simp] theorem State.setPit_draws (s : State) (x : Pit) : (s.setPit x).draws = s.draws := rfl

@[simp] theorem State.setPpi_cfg (s : State) (x : Ppi) : (s.setPpi x).cfg = s.cfg := rfl
@[simp] theorem State.setPpi_pic (s : State) (x : Ppi) : (s.setPpi x).pic = s.pic := rfl
@[simp] theorem State.setPpi_dma (s : State) (x : Ppi) : (s.setPpi x).dma = s.dma := rfl
@[simp] theorem State.setPpi_pit (s : State) (x : Ppi) : (s.setPpi x).pit = s.pit := rfl
@[simp] theorem State.setPpi_ppi (s : State) (x : Ppi) : (s.setPpi x).ppi = x := rfl
@[simp] theorem State.setPpi_crtc (s : State) (x : Ppi) : (s.setPpi x).crtc = s.crtc := rfl
@[simp] theorem State.setPpi_ega (s : State) (x : Ppi) : (s.setPpi x).ega = s.ega := rfl
@[simp] theorem State.setPpi_fdc (s : State) (x : Ppi) : (s.setPpi x).fdc = s.fdc := rfl
@[simp] theorem State.setPpi_ems (s : State) (x : Ppi) : (s.setPpi x).ems = s.ems := rfl
@[simp] theorem State.setPpi_requests (s : State) (x : Ppi) : (s.setPpi x).requests = s.requests := rfl
@[simp] theorem State.setPpi_result (s : State) (x : Ppi) : (s.setPpi x).result = s.result := rfl
@[simp] theorem State.setPpi_draws (s : State) (x : Ppi) : (s.setPpi x).draws = s.draws := rfl

@[simp] theorem State.setCrtc_cfg (s : State) (x : Crtc) : (s.setCrtc x).cfg = s.cfg := rfl
@[simp] theorem State.setCrtc_pic (s : State) (x : Crtc) : (s.setCrtc x).pic = s.pic := rfl
@[simp] theorem State.setCrtc_dma (s : State) (x : Crtc) : (s.setCrtc x).dma = s.dma := rfl
@[simp] theorem State.setCrtc_pit (s : State) (x : Crtc) : (s.setCrtc x).pit = s.pit := rfl
@[simp] theorem State.setCrtc_ppi (s : State) (x : Crtc) : (s.setCrtc x).ppi = s.ppi := rfl
@[simp] theorem State.setCrtc_crtc (s : State) (x : Crtc) : (s.setCrtc x).crtc = x := rfl
@[simp] theorem State.setCrtc_ega (s : State) (x : Crtc) : (s.setCrtc x).ega = s.ega := rfl
@[simp] theorem State.setCrtc_fdc (s : State) (x : Crtc) : (s.setCrtc x).fdc = s.fdc := rfl
@[simp] theorem State.setCrtc_ems (s : State) (x : Crtc) : (s.setCrtc x).ems = s.ems := rfl
@[simp] theorem State.setCrtc_requests (s : State) (x : Crtc) : (s.setCrtc x).requests = s.requests := rfl
@[simp] theorem State.setCrtc_result (s : State) (x : Crtc) : (s.setCrtc x).result = s.result := rfl
@[simp] theorem State.setCrtc_draws (s : State) (x : Crtc) : (s.setCrtc x).draws = s.draws := rfl

@[simp] theorem State.setEga_cfg (s : State) (x : Ega) : (s.setEga x).cfg = s.cfg := rfl
@[simp] theorem State.setEga_pic (s : State) (x : Ega) : (s.setEga x).pic = s.pic := rfl
@[simp] theorem State.setEga_dma (s : State) (x : Ega) : (s.setEga x).dma = s.dma := rfl
@[simp] theorem State.setEga_pit (s : State) (x : Ega) : (s.setEga x).pit = s.pit := rfl
@[simp] theorem State.setEga_ppi (s : State) (x : Ega) : (s.setEga x).ppi = s.ppi := rfl
@[simp] theorem State.setEga_crtc (s : State) (x : Ega) : (s.setEga x).crtc = s.crtc := rfl
@[simp] theorem State.setEga_ega (s : State) (x : Ega) : (s.setEga x).ega = x := rfl
@[simp] theorem State.setEga_fdc (s : State) (x : Ega) : (s.setEga x).fdc = s.fdc := rfl
@[simp] theorem State.setEga_ems (s : State) (x : Ega) : (s.setEga x).ems = s.ems := rfl
@[simp] theorem State.setEga_requests (s : State) (x : Ega) : (s.setEga x).requests = s.requests := rfl
@[simp] theorem State.setEga_result (s : State) (x : Ega) : (s.setEga x).result = s.result := rfl
@[simp] theorem State.setEga_draws (s : State) (x : Ega) : (s.setEga x).draws = s.draws := rfl

@[simp] theorem State.setFdc_cfg (s : State) (x : Fdc) : (s.setFdc x).cfg = s.cfg := rfl
@[simp] theorem State.setFdc_pic (s : State) (x : Fdc) : (s.setFdc x).pic = s.pic := rfl
@[simp] theorem State.setFdc_dma (s : State) (x : Fdc) : (s.setFdc x).dma = s.dma := rfl
@[simp] theorem State.setFdc_pit (s : State) (x : Fdc) : (s.setFdc x).pit = s.pit := rfl
@[simp] theorem State.setFdc_ppi (s : State) (x : Fdc) : (s.setFdc x).ppi = s.ppi := rfl
@[simp] theorem State.setFdc_crtc (s : State) (x : Fdc) : (s.setFdc x).crtc = s.crtc := rfl
@[simp] theorem State.setFdc_ega (s : State) (x : Fdc) : (s.setFdc x).ega = s.ega := rfl
@[simp] theorem State.setFdc_fdc (s : State) (x : Fdc) : (s.setFdc x).fdc = x := rfl
@[simp] theorem State.setFdc_ems (s : State) (x : Fdc) : (s.setFdc x).ems = s.ems := rfl
@[simp] theorem State.setFdc_requests (s : State) (x : Fdc) : (s.setFdc x).requests = s.requests := rfl
@[simp] theorem State.setFdc_result (s : State) (x : Fdc) : (s.setFdc x).result = s.result := rfl
@[simp] theorem State.setFdc_draws (s : State) (x : Fdc) : (s.setFdc x).draws = s.draws := rfl

@[simp] theorem State.setEms_cfg (s : State) (x : Ems) : (s.setEms x).cfg = s.cfg := rfl
@[simp] theorem State.setEms_pic (s : State) (x : Ems) : (s.setEms x).pic = s.pic := rfl
@[simp] theorem State.setEms_dma (s : State) (x : Ems) : (s.setEms x).dma = s.dma := rfl
@[simp] theorem State.setEms_pit (s : State) (x : Ems) : (s.setEms x).pit = s.pit := rfl
@[simp] theorem State.setEms_ppi (s : State) (x : Ems) : (s.setEms x).ppi = s.ppi := rfl
@[simp] theorem State.setEms_crtc (s : State) (x : Ems) : (s.setEms x).crtc = s.crtc := rfl
@[simp] theorem State.setEms_ega (s : State) (x : Ems) : (s.setEms x).ega = s.ega := rfl
@[simp] theorem State.setEms_fdc (s : State) (x : Ems) : (s.setEms x).fdc = s.fdc := rfl
@[simp] theorem State.setEms_ems (s : State) (x : Ems) : (s.setEms x).ems = x := rfl
@[simp] theorem State.setEms_requests (s : State) (x : Ems) : (s.setEms x).requests = s.requests := rfl
@[simp] theorem State.setEms_result (s : State) (x : Ems) : (s.setEms x).result = s.result := rfl
@[simp] theorem State.setEms_draws (s : State) (x : Ems) : (s.setEms x).draws = s.draws := rfl

@[simp] theorem State.setRequests_cfg (s : State) (x : List Request) : (s.setRequests x).cfg = s.cfg := rfl
@[simp] theorem State.setRequests_pic (s : State) (x : List Request) : (s.setRequests x).pic = s.pic := rfl
@[simp] theorem State.setRequests_dma (s : State) (x : List Request) : (s.setRequests x).dma = s.dma := rfl
@[simp] theorem State.setRequests_pit (s : State) (x : List Request) : (s.setRequests x).pit = s.pit := rfl
@[simp] theorem State.setRequests_ppi (s : State) (x : List Request) : (s.setRequests x).ppi = s.ppi := rfl
@[simp] theorem State.setRequests_crtc (s : State) (x : List Request) : (s.setRequests x).crtc = s.crtc := rfl
@[simp] theorem State.setRequests_ega (s : State) (x : List Request) : (s.setRequests x).ega = s.ega := rfl
@[simp] theorem State.setRequests_fdc (s : State) (x : List Request) : (s.setRequests x).fdc = s.fdc := rfl
@[simp] theorem State.setRequests_ems (s : State) (x : List Request) : (s.setRequests x).ems = s.ems := rfl
@[simp] theorem State.setRequests_requests (s : State) (x : List Request) : (s.setRequests x).requests = x := rfl
@[simp] theorem State.setRequests_result (s : State) (x : List Request) : (s.setRequests x).result = s.result := rfl
@[simp] theorem State.setRequests_draws (s : State) (x : List Request) : (s.setRequests x).draws = s.draws := rfl

@[simp] theorem State.setResult_cfg (s : State) (x : Result) : (s.setResult x).cfg = s.cfg := rfl
@[simp] theorem State.setResult_pic (s : State) (x : Result) : (s.setResult x).pic = s.pic := rfl
@[simp] theorem State.setResult_dma (s : State) (x : Result) : (s.setResult x).dma = s.dma := rfl
@[simp] theorem State.setResult_pit (s : State) (x : Result) : (s.setResult x).pit = s.pit := rfl
@[simp] theorem State.setResult_ppi (s : State) (x : Result) : (s.setResult x).ppi = s.ppi := rfl
@[simp] theorem State.setResult_crtc (s : State) (x : Result) : (s.setResult x).crtc = s.crtc := rfl
@[simp] theorem State.setResult_ega (s : State) (x : Result) : (s.setResult x).ega = s.ega := rfl
@[simp] theorem State.setResult_fdc (s : State) (x : Result) : (s.setResult x).fdc = s.fdc := rfl
@[simp] theorem State.setResult_ems (s : State) (x : Result) : (s.setResult x).ems = s.ems := rfl
@[simp] theorem State.setResult_requests (s : State) (x : Result) : (s.setResult x).requests = s.requests := rfl
@[simp] theorem State.setResult_result (s : State) (x : Result) : (s.setResult x).result = x := rfl
@[simp] theorem State.setResult_draws (s : State) (x : Result) : (s.setResult x).draws = s.draws := rfl

@[simp] theorem State.tookDraws_cfg (s : State) (x : Nat) : (s.tookDraws x).cfg = s.cfg := rfl
@[simp] theorem State.tookDraws_pic (s : State) (x : Nat) : (s.tookDraws x).pic = s.pic := rfl
@[simp] theorem State.tookDraws_dma (s : State) (x : Nat) : (s.tookDraws x).dma = s.dma := rfl
@[simp] theorem State.tookDraws_pit (s : State) (x : Nat) : (s.tookDraws x).pit = s.pit := rfl
@[simp] theorem State.tookDraws_ppi (s : State) (x : Nat) : (s.tookDraws x).ppi = s.ppi := rfl
@[simp] theorem State.tookDraws_crtc (s : State) (x : Nat) : (s.tookDraws x).crtc = s.crtc := rfl
@[simp] theorem State.tookDraws_ega (s : State) (x : Nat) : (s.tookDraws x).ega = s.ega := rfl
@[simp] theorem State.tookDraws_fdc (s : State) (x : Nat) : (s.tookDraws x).fdc = s.fdc := rfl
@[simp] theorem State.tookDraws_ems (s : State) (x : Nat) : (s.tookDraws x).ems = s.ems := rfl
@[simp] theorem State.tookDraws_requests (s : State) (x : Nat) : (s.tookDraws x).requests = s.requests := rfl
@[simp] theorem State.tookDraws_result (s : State) (x : Nat) : (s.tookDraws x).result = s.result := rfl
@[simp] theorem State.tookDraws_draws (s : State) (x : Nat) : (s.tookDraws x).draws = s.draws + x := rfl

@[simp] theorem State.raiseLine_cfg (s : State) (n : Nat) : (s.raiseLine n).cfg = s.cfg := rfl
@[simp] theorem State.raiseLine_pic (s : State) (n : Nat) : (s.raiseLine n).pic = s.pic.callIrq n := rfl
@[simp] theorem State.raiseLine_dma (s : State) (n : Nat) : (s.raiseLine n).dma = s.dma := rfl
@[simp] theorem State.raiseLine_pit (s : State) (n : Nat) : (s.raiseLine n).pit = s.pit := rfl
@[simp] theorem State.raiseLine_ppi (s : State) (n : Nat) : (s.raiseLine n).ppi = s.ppi := rfl
@[simp] theorem State.raiseLine_crtc (s : State) (n : Nat) : (s.raiseLine n).crtc = s.crtc := rfl
@[simp] theorem State.raiseLine_ega (s : State) (n : Nat) : (s.raiseLine n).ega = s.ega := rfl
@[simp] theorem State.raiseLine_fdc (s : State) (n : Nat) : (s.raiseLine n).fdc = s.fdc := rfl
@[simp] theorem State.raiseLine_ems (s : State) (n : Nat) : (s.raiseLine n).ems = s.ems := rfl
@[simp] theorem State.raiseLine_requests (s : State) (n : Nat) : (s.raiseLine n).requests = s.requests := rfl
@[simp] theorem State.raiseLine_result (s : State) (n : Nat) : (s.raiseLine n).result = s.result := rfl
@[simp] theorem State.raiseLine_draws (s : State) (n : Nat) : (s.raiseLine n).draws = s.draws := rfl

@[simp] theorem State.dropLine_cfg (s : State) (n : Nat) : (s.dropLine n).cfg = s.cfg := rfl
@[simp] theorem State.dropLine_pic (s : State) (n : Nat) : (s.dropLine n).pic = s.pic.clearIrq n := rfl
@[simp] theorem State.dropLine_dma (s : State) (n : Nat) : (s.dropLine n).dma = s.dma := rfl
@[simp] theorem State.dropLine_pit (s : State) (n : Nat) : (s.dropLine n).pit = s.pit := rfl
@[simp] theorem State.dropLine_ppi (s : State) (n : Nat) : (s.dropLine n).ppi = s.ppi := rfl
@[simp] theorem State.dropLine_crtc (s : State) (n : Nat) : (s.dropLine n).crtc = s.crtc := rfl
@[simp] theorem State.dropLine_ega (s : State) (n : Nat) : (s.dropLine n).ega = s.ega := rfl
@[simp] theorem State.dropLine_fdc (s : State) (n : Nat) : (s.dropLine n).fdc = s.fdc := rfl
@[simp] theorem State.dropLine_ems (s : State) (n : Nat) : (s.dropLine n).ems = s.ems := rfl
@[simp] theorem State.dropLine_requests (s : State) (n : Nat) : (s.dropLine n).requests = s.requests := rfl
@[simp] theorem State.dropLine_result (s : State) (n : Nat) : (s.dropLine n).result = s.result := rfl
@[simp] theorem State.dropLine_draws (s : State) (n : Nat) : (s.dropLine n).draws = s.draws := rfl

@[simp] theorem State.ctx_cfg (s : State) : s.ctx.cfg = s.cfg := rfl
@[simp] theorem State.ctx_icwStep (s : State) : s.ctx.icwStep = s.pic.icwStep := rfl

@[simp] theorem State.construct_cfg (c : Config) : (State.construct c).cfg = c := rfl
@[simp] theorem State.construct_requests (c : Config) : (State.construct c).requests = [] := rfl

end Sys2Proof.Machine
end

