-- ==== Sys2Proof/Laws/Ops.lean ====
section
/-! SUPPORT. One lemma per shared operation that says all it can do: how operations end, bits of a byte, banks and arrays
with one element replaced, and the interrupt service. Proofs cite these and leave the operations folded. -/

namespace Sys2Proof.Machine

/-! ### How an operation ends -/

@[simp] theorem done_eq (s : State) : done s = .next { s with result := .none } := rfl
@[simp] theorem answer_eq (v : Byte) (s : State) : answer v s = .next { s with result := .byte v } := rfl
@[simp] theorem answerFlag_eq (b : Bool) (s : State) : answerFlag b s = .next { s with result := .flag b } := rfl
@[simp] theorem answerDraw_eq (s : State) :
    answerDraw s = .next { s with result := .byte (Config.draw s.draws), draws := s.draws + 1 } := rfl
@[simp] theorem violation_eq (c : Violation) : violation c = .fault (.hardwareProtocolViolation c) := rfl
@[simp] theorem Res.andThen_next (s : State) (f : State → Res) : Res.andThen (.next s) f = f s := rfl
@[simp] theorem Res.andThen_fault (e : Fault) (f : State → Res) : Res.andThen (.fault e) f = .fault e := rfl
@[simp] theorem Res.andThen_refused (e : Refusal) (f : State → Res) : Res.andThen (.refused e) f = .refused e := rfl

/-- An operation that goes on after another ends in a next state only through the next state of the first. -/
theorem Res.andThen_eq_next {r : Res} {f : State → Res} {t : State} (h : Res.andThen r f = .next t) :
    ∃ u, r = .next u ∧ f u = .next t := by
  cases r with
  | next u => exact ⟨u, rfl, h⟩
  | fault e => cases h
  | refused e => cases h

/-- An operation that goes on after another faults in the first or in the second. -/
theorem Res.andThen_eq_fault {r : Res} {f : State → Res} {e : Fault} (h : Res.andThen r f = .fault e) :
    r = .fault e ∨ ∃ u, r = .next u ∧ f u = .fault e := by
  cases r with
  | next u => exact .inr ⟨u, rfl, h⟩
  | fault e' => exact .inl (by simpa using h)
  | refused e' => cases h

/-! ### Bits of a byte -/

/-- Setting bit n of a byte sets that bit and no other. -/
theorem getLsbD_setBit (b : Byte) {n m : Nat} (hm : m < 8) : (setBit b n).getLsbD m = (b.getLsbD m || m == n) := by
  simp only [setBit, BitVec.getLsbD_or, BitVec.getLsbD_shiftLeft, hm, decide_true, Bool.true_and]
  congr 1
  by_cases h : m = n
  · simp [h]
  · by_cases hlt : m < n
    · simp [hlt, h]
    · have : m - n ≠ 0 := by omega
      simp [hlt, h, this]

/-- Clearing bit n of a byte clears that bit and no other. -/
theorem getLsbD_clearBit (b : Byte) {n m : Nat} (hm : m < 8) : (clearBit b n).getLsbD m = (b.getLsbD m && m != n) := by
  simp only [clearBit, BitVec.getLsbD_and, BitVec.getLsbD_not, BitVec.getLsbD_shiftLeft, hm, decide_true, Bool.true_and]
  congr 1
  by_cases h : m = n
  · simp [h]
  · by_cases hlt : m < n
    · simp [hlt, h]
    · have : m - n ≠ 0 := by omega
      simp [hlt, h, this]

/-- `lowestSet` finds the set bit below which none is set. -/
theorem lowestSet_eq_some {b : Byte} {n : Nat} :
    lowestSet b = some n ↔ n < 8 ∧ b.getLsbD n = true ∧ ∀ m, m < n → b.getLsbD m = false := by
  rw [lowestSet, List.find?_range_eq_some]
  simp only [List.mem_range, Bool.not_eq_eq_eq_not, Bool.not_true]
  tauto

/-- `lowestSet` finds nothing exactly in the byte 0. -/
theorem lowestSet_eq_none {b : Byte} : lowestSet b = none ↔ b = 0#8 := by
  rw [lowestSet, List.find?_eq_none]
  constructor
  · intro h
    apply BitVec.eq_of_getLsbD_eq
    intro i hi
    simpa using h i (List.mem_range.mpr hi)
  · rintro rfl i _
    simp

/-- The pending lines: requested and not masked. -/
theorem Pic.getLsbD_pending (p : Pic) {n : Nat} (hn : n < 8) :
    p.pending.getLsbD n = (p.irr.getLsbD n && !p.imr.getLsbD n) := by
  simp [Pic.pending, hn]

/-! ### Banks and arrays with one element replaced -/

theorem bankRead_of_lt {n : Nat} (bank : Vector Byte n) {i : Nat} (h : i < n) : bankRead bank i = bank[i] := by
  simp [bankRead, h]

theorem bankWrite_get {n : Nat} (bank : Vector Byte n) (i : Nat) (v : Byte) {j : Nat} (h : j < n) :
    (bankWrite bank i v)[j] = if i = j then v else bank[j] := by
  simp [bankWrite, Vector.getElem_setIfInBounds]

theorem bankWrite_of_lt {n : Nat} (bank : Vector Byte n) {i : Nat} (v : Byte) (h : i < n) :
    bankWrite bank i v = bank.set i v h := by
  ext j hj
  simp [bankWrite_get, Vector.getElem_set]

theorem Dma.chan_setChan (d : Dma) (c c' : BitVec 2) (x : Channel) :
    (d.setChan c x).chan c' = if c' = c then x else d.chan c' := by
  simp only [Dma.chan, Dma.setChan, Vector.getElem_set, BitVec.toNat_inj]
  split <;> split <;> simp_all

theorem Pit.counter_setCounter (p : Pit) (k j : Fin 3) (x : Counter) :
    (p.setCounter k x).counter j = if j = k then x else p.counter j := by
  simp only [Pit.counter, Pit.setCounter, Vector.getElem_set, Fin.val_inj]
  split <;> split <;> simp_all

theorem Fdc.driveAt_setDrive (f : Fdc) (d e : BitVec 2) (x : Drive) :
    (f.setDrive d x).driveAt e = if e = d then x else f.driveAt e := by
  simp only [Fdc.driveAt, Fdc.setDrive, Vector.getElem_set, BitVec.toNat_inj]
  split <;> split <;> simp_all

theorem Ega.plane_writePlane (e : Ega) (p q : BitVec 2) (cell : Nat) (v : Byte) :
    (e.writePlane p cell v).plane q = if q = p then (e.plane p).write cell v else e.plane q := by
  simp only [Ega.plane, Ega.writePlane, Vector.getElem_set, BitVec.toNat_inj]
  split <;> split <;> simp_all

theorem Pit.counter_tick (p : Pit) (k : Fin 3) : p.tick.counter k = (p.counter k).tick.1 := by
  match k with
  | 0 => rfl
  | 1 => rfl
  | 2 => rfl

/-! ### Interrupt service -/

/-- Everything `nextInt()` can do: nothing, when no line is pending; else it takes the lowest pending line. -/
theorem Pic.nextInt_cases (p : Pic) :
    (p.pending = 0#8 ∧ p.nextInt = (0, p))
    ∨ ∃ n, n < 8 ∧ p.pending.getLsbD n = true ∧ (∀ m, m < n → p.pending.getLsbD m = false)
        ∧ p.nextInt = (p.icw[1] + BitVec.ofNat 8 n, { p with irr := clearBit p.irr n, isr := setBit p.isr n }) := by
  cases h : lowestSet p.pending with
  | none => exact .inl ⟨lowestSet_eq_none.mp h, by simp [Pic.nextInt, h]⟩
  | some n =>
    obtain ⟨hn, hb, hm⟩ := lowestSet_eq_some.mp h
    exact .inr ⟨n, hn, hb, hm, by simp [Pic.nextInt, h, bankRead]⟩

/-- Everything an End-Of-Interrupt can do: nothing, when no line is in service; else it clears the lowest. -/
theorem Pic.eoi_cases (p : Pic) :
    (p.isr = 0#8 ∧ p.eoi = p)
    ∨ ∃ n, n < 8 ∧ p.isr.getLsbD n = true ∧ (∀ m, m < n → p.isr.getLsbD m = false)
        ∧ p.eoi = { p with isr := clearBit p.isr n } := by
  cases h : lowestSet p.isr with
  | none => exact .inl ⟨lowestSet_eq_none.mp h, by simp [Pic.eoi, h]⟩
  | some n =>
    obtain ⟨hn, hb, hm⟩ := lowestSet_eq_some.mp h
    exact .inr ⟨n, hn, hb, hm, by simp [Pic.eoi, h]⟩

/-! ### The step -/

/-- Everything a step can do: rest, when nothing is requested; else perform the first request. -/
theorem step_cases (s : State) :
    (s.requests = [] ∧ step s = .next s)
    ∨ ∃ r rest, s.requests = r :: rest ∧ step s = perform r (s.setRequests rest) := by
  cases h : s.requests with
  | nil => exact .inl ⟨rfl, by simp [step, nextRequest, h, idle]⟩
  | cons r rest => exact .inr ⟨r, rest, rfl, by simp [step, nextRequest, h]⟩

end Sys2Proof.Machine
end

