-- ==== Sys2Proof/Laws/Fdc.lean ====
section
/-! SUPPORT. The data port of the FloppyController, said once: everything a byte written there can do, and what a run of
bytes leaves alone. -/

namespace Sys2Proof.Machine

/-- A controller whose drives are written out one by one. -/
theorem Fdc.driveAt_of_drive {f : Fdc} {d0 d1 d2 d3 : Drive} (h : f.drive = #v[d0, d1, d2, d3]) (d : BitVec 2) :
    f.driveAt d = if d = 0 then d0 else if d = 1 then d1 else if d = 2 then d2 else d3 := by
  have key : ∀ e : BitVec 2, (#v[d0, d1, d2, d3])[e.toNat]'e.isLt
      = if e = 0 then d0 else if e = 1 then d1 else if e = 2 then d2 else d3 := by
    intro e
    have : e = 0 ∨ e = 1 ∨ e = 2 ∨ e = 3 := by revert e; decide
    rcases this with rfl | rfl | rfl | rfl <;> rfl
  unfold Fdc.driveAt
  simp only [h]
  exact key d

/-- Init() touches the result code of every drive, and nothing else of it. -/
theorem Fdc.driveAt_init (f : Fdc) (cfg : Config) (d : BitVec 2) :
    (f.init cfg).driveAt d = (f.driveAt d).reinitialised cfg := by
  rw [Fdc.driveAt_of_drive (f := f.init cfg) rfl]
  have : d = 0 ∨ d = 1 ∨ d = 2 ∨ d = 3 := by revert d; decide
  rcases this with rfl | rfl | rfl | rfl <;> rfl

/-- A drive after construction. -/
theorem Fdc.driveAt_initial (cfg : Config) (d : BitVec 2) :
    (Fdc.initial cfg).driveAt d = Drive.initial (cfg.fdcGeom[d.toNat]'d.isLt) := by
  rw [Fdc.driveAt_of_drive (f := Fdc.initial cfg) rfl]
  have : d = 0 ∨ d = 1 ∨ d = 2 ∨ d = 3 := by revert d; decide
  rcases this with rfl | rfl | rfl | rfl <;> rfl

/-- Everything Execute can do, by the opcode in the buffer. -/
theorem fdcExecute_cases (s : State) :
    (fdcOpcode (bankRead s.fdc.buf 0) = 0x07 ∧ drivePresent s.cfg s.fdc.addressed = true
      ∧ fdcExecute s = done ((s.setFdc (s.fdc.recalibrate s.cfg)).raiseLine 6))
    ∨ (fdcOpcode (bankRead s.fdc.buf 0) = 0x08 ∧ fdcExecute s = done (s.setFdc (s.fdc.senseInterrupt s.cfg)))
    ∨ (fdcOpcode (bankRead s.fdc.buf 0) = 0x0F ∧ drivePresent s.cfg s.fdc.addressed = true
      ∧ fdcExecute s = done ((s.setFdc (s.fdc.seek s.cfg)).raiseLine 6))
    ∨ ((fdcOpcode (bankRead s.fdc.buf 0) = 0x07 ∨ fdcOpcode (bankRead s.fdc.buf 0) = 0x0F)
      ∧ drivePresent s.cfg s.fdc.addressed = false ∧ fdcExecute s = .refused .driveAbsent)
    ∨ (fdcOpcode (bankRead s.fdc.buf 0) ≠ 0x07 ∧ fdcOpcode (bankRead s.fdc.buf 0) ≠ 0x08
      ∧ fdcOpcode (bankRead s.fdc.buf 0) ≠ 0x0F ∧ fdcExecute s = done (s.setFdc s.fdc.toIdle)) := by
  unfold fdcExecute
  by_cases h7 : fdcOpcode (bankRead s.fdc.buf 0) = 0x07
  · by_cases hp : drivePresent s.cfg s.fdc.addressed = true
    · exact .inl ⟨h7, hp, by rw [if_pos h7, if_pos hp]⟩
    · exact .inr (.inr (.inr (.inl ⟨.inl h7, by simpa using hp, by rw [if_pos h7, if_neg hp]⟩)))
  · by_cases h8 : fdcOpcode (bankRead s.fdc.buf 0) = 0x08
    · exact .inr (.inl ⟨h8, by rw [if_neg h7, if_pos h8]⟩)
    · by_cases hf : fdcOpcode (bankRead s.fdc.buf 0) = 0x0F
      · by_cases hp : drivePresent s.cfg s.fdc.addressed = true
        · exact .inr (.inr (.inl ⟨hf, hp, by rw [if_neg h7, if_neg h8, if_pos hf, if_pos hp]⟩))
        · exact .inr (.inr (.inr (.inl ⟨.inr hf, by simpa using hp,
            by rw [if_neg h7, if_neg h8, if_pos hf, if_neg hp]⟩)))
      · exact .inr (.inr (.inr (.inr ⟨h7, h8, hf, by rw [if_neg h7, if_neg h8, if_neg hf]⟩)))

/-- Everything a byte written to the data port can do: be dropped, be appended, or complete a command. -/
theorem fdcDataWrite_cases (v : Byte) (s : State) :
    (s.fdc.status ≠ s.cfg.fdcMsrIdle ∧ fdcDataWrite v s = done s)
    ∨ (s.fdc.status = s.cfg.fdcMsrIdle
      ∧ s.fdc.wr + 1 < cbReq s.cfg (fdcOpcode (bankRead (s.fdc.append v).buf 0))
      ∧ fdcDataWrite v s = done (s.setFdc (s.fdc.append v)))
    ∨ (s.fdc.status = s.cfg.fdcMsrIdle
      ∧ cbReq s.cfg (fdcOpcode (bankRead (s.fdc.append v).buf 0)) ≤ s.fdc.wr + 1
      ∧ fdcDataWrite v s = fdcExecute (s.setFdc (s.fdc.append v))) := by
  unfold fdcDataWrite
  by_cases hs : s.fdc.status = s.cfg.fdcMsrIdle
  · by_cases hl : cbReq s.cfg (fdcOpcode (bankRead (s.fdc.append v).buf 0)) ≤ s.fdc.wr + 1
    · exact .inr (.inr ⟨hs, hl, by rw [if_neg (not_not.mpr hs)]; exact if_pos hl⟩)
    · exact .inr (.inl ⟨hs, by omega, by rw [if_neg (not_not.mpr hs)]; exact if_neg hl⟩)
  · exact .inl ⟨hs, if_pos hs⟩

/-- What the data port leaves alone: every other chip, and of the InterruptController all but line 6's request. -/
structure FdcFrame (s t : State) : Prop where
  cfg : t.cfg = s.cfg
  dma : t.dma = s.dma
  pit : t.pit = s.pit
  ppi : t.ppi = s.ppi
  crtc : t.crtc = s.crtc
  ega : t.ega = s.ega
  ems : t.ems = s.ems
  requests : t.requests = s.requests
  draws : t.draws = s.draws
  result : t.result = .none
  pic : t.pic = s.pic ∨ t.pic = s.pic.callIrq 6

theorem fdcExecute_frame {s t : State} (h : fdcExecute s = .next t) : FdcFrame s t := by
  rcases fdcExecute_cases s with ⟨-, -, e⟩ | ⟨-, e⟩ | ⟨-, -, e⟩ | ⟨-, -, e⟩ | ⟨-, -, -, e⟩ <;> rw [e] at h <;> cases h
  · exact ⟨rfl, rfl, rfl, rfl, rfl, rfl, rfl, rfl, rfl, rfl, .inr rfl⟩
  · exact ⟨rfl, rfl, rfl, rfl, rfl, rfl, rfl, rfl, rfl, rfl, .inl rfl⟩
  · exact ⟨rfl, rfl, rfl, rfl, rfl, rfl, rfl, rfl, rfl, rfl, .inr rfl⟩
  · exact ⟨rfl, rfl, rfl, rfl, rfl, rfl, rfl, rfl, rfl, rfl, .inl rfl⟩

theorem fdcDataWrite_frame {v : Byte} {s t : State} (h : fdcDataWrite v s = .next t) : FdcFrame s t := by
  rcases fdcDataWrite_cases v s with ⟨-, e⟩ | ⟨-, -, e⟩ | ⟨-, -, e⟩ <;> rw [e] at h
  · cases h; exact ⟨rfl, rfl, rfl, rfl, rfl, rfl, rfl, rfl, rfl, rfl, .inl rfl⟩
  · cases h; exact ⟨rfl, rfl, rfl, rfl, rfl, rfl, rfl, rfl, rfl, rfl, .inl rfl⟩
  · obtain ⟨a, b, c, d, e, f, g, i, j, k, l⟩ := fdcExecute_frame h
    exact ⟨a, b, c, d, e, f, g, i, j, k, l⟩

/-- Setting line 6's request twice is setting it once. -/
theorem Pic.callIrq_callIrq (p : Pic) (n : Nat) : (p.callIrq n).callIrq n = p.callIrq n := by
  simp [Pic.callIrq, setBit, BitVec.or_assoc]

theorem fdcCommandBytes_frame {bs : List Byte} {s t : State} (h : fdcCommandBytes bs s = .next t) : FdcFrame s t := by
  induction bs generalizing s with
  | nil => cases h; exact ⟨rfl, rfl, rfl, rfl, rfl, rfl, rfl, rfl, rfl, rfl, .inl rfl⟩
  | cons b rest ih =>
    obtain ⟨u, hu, ht⟩ := Res.andThen_eq_next h
    have f := fdcDataWrite_frame hu
    have g := ih ht
    refine ⟨g.cfg.trans f.cfg, g.dma.trans f.dma, g.pit.trans f.pit, g.ppi.trans f.ppi, g.crtc.trans f.crtc,
      g.ega.trans f.ega, g.ems.trans f.ems, g.requests.trans f.requests, g.draws.trans f.draws, g.result, ?_⟩
    rcases f.pic with f | f <;> rcases g.pic with g | g <;> rw [g, f]
    · exact .inl rfl
    · exact .inr rfl
    · exact .inr rfl
    · exact .inr (Pic.callIrq_callIrq _ _)

/-- Execute raises no fault, nor does the data port. -/
theorem fdcExecute_ne_fault {s : State} {e : Fault} : fdcExecute s ≠ .fault e := by
  rcases fdcExecute_cases s with ⟨-, -, h⟩ | ⟨-, h⟩ | ⟨-, -, h⟩ | ⟨-, -, h⟩ | ⟨-, -, -, h⟩ <;> rw [h] <;> simp

theorem fdcDataWrite_ne_fault {v : Byte} {s : State} {e : Fault} : fdcDataWrite v s ≠ .fault e := by
  rcases fdcDataWrite_cases v s with ⟨-, h⟩ | ⟨-, -, h⟩ | ⟨-, -, h⟩ <;> rw [h]
  · simp
  · simp
  · exact fdcExecute_ne_fault

theorem fdcCommandBytes_ne_fault {bs : List Byte} {s : State} {e : Fault} : fdcCommandBytes bs s ≠ .fault e := by
  induction bs generalizing s with
  | nil => exact fun h => nomatch h
  | cons b rest ih =>
    intro h
    rcases Res.andThen_eq_fault h with h | ⟨u, -, h⟩
    · exact fdcDataWrite_ne_fault h
    · exact ih h

end Sys2Proof.Machine
end

