-- ==== Sys2Proof/Laws/Memory.lean ====
section
/-! SUPPORT. The laws of the byte stores: every write keeps the canonical form, a byte written is read back, every other
byte is as before, and two stores in canonical form that read alike are equal. -/

namespace Sys2Proof.Machine

theorem Memory.wfAbove_mono {m : Memory} {low low' : Nat} (h : low' ≤ low) (hm : Memory.wfAbove low m = true) :
    Memory.wfAbove low' m = true := by
  cases m with
  | nil => rfl
  | cons cell rest =>
    obtain ⟨a, b⟩ := cell
    simp only [Memory.wfAbove, Bool.and_eq_true, decide_eq_true_eq, bne_iff_ne] at hm ⊢
    exact ⟨⟨by omega, hm.1.2⟩, hm.2⟩

theorem Memory.read_of_wfAbove {m : Memory} {low n : Nat} (hm : Memory.wfAbove low m = true) (h : n ≤ low) :
    m.read n = 0#8 := by
  induction m generalizing low with
  | nil => rfl
  | cons cell rest ih =>
    obtain ⟨a, b⟩ := cell
    simp only [Memory.wfAbove, Bool.and_eq_true, decide_eq_true_eq, bne_iff_ne] at hm
    rw [Memory.read, if_neg (by omega)]
    exact ih hm.2 (by omega)

theorem Memory.write_wfAbove {m : Memory} {low n : Nat} (v : Byte) (hn : low < n) (hm : Memory.wfAbove low m = true) :
    Memory.wfAbove low (m.write n v) = true := by
  induction m generalizing low with
  | nil => by_cases hv : v = 0#8 <;> simp [Memory.write, Memory.wfAbove, hv, hn]
  | cons cell rest ih =>
    obtain ⟨a, b⟩ := cell
    simp only [Memory.wfAbove, Bool.and_eq_true, decide_eq_true_eq, bne_iff_ne] at hm
    obtain ⟨⟨hla, hb⟩, hrest⟩ := hm
    rw [Memory.write]
    by_cases hlt : n < a
    · by_cases hv : v = 0#8 <;> simp [hlt, hv, Memory.wfAbove, hn, hla, hb, hrest]
    · by_cases heq : n = a
      · subst heq
        by_cases hv : v = 0#8
        · simpa [hv] using Memory.wfAbove_mono hla.le hrest
        · simp [hv, Memory.wfAbove, hn, hrest]
      · simp [hlt, heq, Memory.wfAbove, hla, hb, ih (by omega : a < n) hrest]

/-- Every write keeps the canonical form. -/
theorem Memory.write_wf {m : Memory} (n : Nat) (v : Byte) (hm : m.wf = true) : (m.write n v).wf = true := by
  cases m with
  | nil => by_cases hv : v = 0#8 <;> simp [Memory.write, Memory.wf, Memory.wfAbove, hv]
  | cons cell rest =>
    obtain ⟨a, b⟩ := cell
    simp only [Memory.wf, Bool.and_eq_true, bne_iff_ne] at hm
    obtain ⟨hb, hrest⟩ := hm
    rw [Memory.write]
    by_cases hlt : n < a
    · by_cases hv : v = 0#8 <;> simp [hlt, hv, Memory.wf, Memory.wfAbove, hb, hrest]
    · by_cases heq : n = a
      · subst heq
        by_cases hv : v = 0#8
        · cases rest with
          | nil => simp [hv, Memory.wf]
          | cons cell2 rest2 =>
            obtain ⟨a2, b2⟩ := cell2
            simp only [Memory.wfAbove, Bool.and_eq_true, bne_iff_ne] at hrest
            simp [hv, Memory.wf, hrest.1.2, hrest.2]
        · simp [hv, Memory.wf, hrest]
      · simp [hlt, heq, Memory.wf, hb, Memory.write_wfAbove v (by omega : a < n) hrest]

/-- A write of a cell inside a store's size leaves every listed cell inside it. -/
theorem Memory.write_within {m : Memory} {size n : Nat} (v : Byte) (hn : n < size) (hm : m.within size = true) :
    (m.write n v).within size = true := by
  induction m with
  | nil => by_cases hv : v = 0#8 <;> simp [Memory.write, Memory.within, hv, hn]
  | cons cell rest ih =>
    obtain ⟨a, b⟩ := cell
    have hm' : a < size ∧ Memory.within size rest = true := by
      simpa only [Memory.within, List.all_cons, Bool.and_eq_true, decide_eq_true_eq] using hm
    have hcons : ∀ (x : Byte) (r : Memory), Memory.within size r = true → Memory.within size ((a, x) :: r) = true := by
      intro x r hr
      simpa only [Memory.within, List.all_cons, Bool.and_eq_true, decide_eq_true_eq] using And.intro hm'.1 hr
    rw [Memory.write]
    by_cases hlt : n < a
    · by_cases hv : v = 0#8
      · simpa [hlt, hv] using hm
      · simpa [hlt, hv, Memory.within, hn] using hm
    · by_cases heq : n = a
      · by_cases hv : v = 0#8
        · simpa [hlt, heq, hv] using hm'.2
        · simpa [hlt, heq, hv] using hcons v rest hm'.2
      · simpa [hlt, heq] using hcons b _ (ih hm'.2)

/-- A byte written is read back. -/
theorem Memory.read_write_same {m : Memory} (n : Nat) (v : Byte) (hm : m.wf = true) : (m.write n v).read n = v := by
  have aux : ∀ (r : Memory) (low : Nat), Memory.wfAbove low r = true → (r.write n v).read n = v := by
    intro r
    induction r with
    | nil => intro low _; by_cases hv : v = 0#8 <;> simp [Memory.write, Memory.read, hv]
    | cons cell rest ih =>
      intro low h
      obtain ⟨a, b⟩ := cell
      have hall := h
      simp only [Memory.wfAbove, Bool.and_eq_true, decide_eq_true_eq, bne_iff_ne] at h
      rw [Memory.write]
      by_cases hlt : n < a
      · by_cases hv : v = 0#8
        · simp only [hlt, hv, if_true]
          rw [Memory.read, if_neg (by omega)]
          exact Memory.read_of_wfAbove h.2 hlt.le
        · simp [hlt, hv, Memory.read]
      · by_cases heq : n = a
        · subst heq
          by_cases hv : v = 0#8
          · simpa [hv] using Memory.read_of_wfAbove h.2 (Nat.le_refl n)
          · simp [hv, Memory.read]
        · rw [if_neg hlt, if_neg heq, Memory.read, if_neg (by omega)]
          exact ih a h.2
  cases m with
  | nil => exact aux [] 0 rfl
  | cons cell rest =>
    obtain ⟨a, b⟩ := cell
    simp only [Memory.wf, Bool.and_eq_true, bne_iff_ne] at hm
    rw [Memory.write]
    by_cases hlt : n < a
    · by_cases hv : v = 0#8
      · simp only [hlt, hv, if_true]
        rw [Memory.read, if_neg (by omega)]
        exact Memory.read_of_wfAbove hm.2 hlt.le
      · simp [hlt, hv, Memory.read]
    · by_cases heq : n = a
      · subst heq
        by_cases hv : v = 0#8
        · simpa [hv] using Memory.read_of_wfAbove hm.2 (Nat.le_refl n)
        · simp [hv, Memory.read]
      · rw [if_neg hlt, if_neg heq, Memory.read, if_neg (by omega)]
        exact aux rest a hm.2

/-- A write leaves every other byte as it was. -/
theorem Memory.read_write_other (m : Memory) {n n' : Nat} (v : Byte) (h : n' ≠ n) :
    (m.write n v).read n' = m.read n' := by
  have hne : n ≠ n' := fun e => h e.symm
  induction m with
  | nil => by_cases hv : v = 0#8 <;> simp [Memory.write, Memory.read, hv, hne]
  | cons cell rest ih =>
    obtain ⟨a, b⟩ := cell
    rw [Memory.write]
    by_cases hlt : n < a
    · by_cases hv : v = 0#8 <;> simp [hlt, hv, Memory.read, hne]
    · by_cases heq : n = a
      · subst heq
        by_cases hv : v = 0#8 <;> simp [hv, Memory.read, hne]
      · rw [if_neg hlt, if_neg heq, Memory.read, Memory.read, ih]

/-- Two stores in canonical form that read alike are equal. -/
theorem Memory.eq_of_read {m m' : Memory} (h : m.wf = true) (h' : m'.wf = true) (heq : ∀ n, m.read n = m'.read n) :
    m = m' := by
  have head : ∀ {a : Nat} {b : Byte} {r r' : Memory}, b ≠ 0#8 → Memory.wfAbove a r = true →
      (∀ n, Memory.read ((a, b) :: r) n = Memory.read r' n) → r'.wf = true →
      ∃ a' b' r'', r' = (a', b') :: r'' ∧ a' ≤ a := by
    intro a b r r' hb _ hr hw
    cases r' with
    | nil => have := hr a; simp [Memory.read, hb] at this
    | cons cell rest =>
      obtain ⟨a', b'⟩ := cell
      refine ⟨a', b', rest, rfl, ?_⟩
      by_contra hlt
      have h0 := hr a
      simp only [Memory.wf, Bool.and_eq_true, bne_iff_ne] at hw
      rw [Memory.read, if_pos rfl, Memory.read, if_neg (by omega), Memory.read_of_wfAbove hw.2 (by omega)] at h0
      exact hb h0
  have wf_tail : ∀ {a : Nat} {r : Memory}, Memory.wfAbove a r = true → r.wf = true := by
    intro a r hr
    cases r with
    | nil => rfl
    | cons cell rest =>
      obtain ⟨x, y⟩ := cell
      simp only [Memory.wfAbove, Bool.and_eq_true, bne_iff_ne] at hr
      simp [Memory.wf, hr.1.2, hr.2]
  induction m generalizing m' with
  | nil =>
    cases m' with
    | nil => rfl
    | cons cell rest =>
      obtain ⟨a, b⟩ := cell
      simp only [Memory.wf, Bool.and_eq_true, bne_iff_ne] at h'
      have h0 := heq a
      simp only [Memory.read, if_true] at h0
      exact absurd h0.symm h'.1
  | cons cell rest ih =>
    obtain ⟨a, b⟩ := cell
    have hw := h
    simp only [Memory.wf, Bool.and_eq_true, bne_iff_ne] at h
    obtain ⟨a', b', rest', rfl, hle⟩ := head h.1 h.2 heq h'
    have hw' := h'
    simp only [Memory.wf, Bool.and_eq_true, bne_iff_ne] at h'
    obtain ⟨_, _, _, hc, hle'⟩ := head h'.1 h'.2 (fun n => (heq n).symm) hw
    cases hc
    have haa : a = a' := Nat.le_antisymm hle' hle
    subst haa
    have hbb := heq a
    simp only [Memory.read, if_true] at hbb
    subst hbb
    have : rest = rest' := by
      refine ih (wf_tail h.2) (wf_tail h'.2) (fun n => ?_)
      by_cases hn : n ≤ a
      · rw [Memory.read_of_wfAbove h.2 hn, Memory.read_of_wfAbove h'.2 hn]
      · have := heq n
        rwa [Memory.read, if_neg (by omega), Memory.read, if_neg (by omega)] at this
    rw [this]

end Sys2Proof.Machine
end

