-- ==== Sys2Proof/Laws/Runs.lean ====
section
/-! SUPPORT. Runs of several operations, taken apart. -/

namespace Sys2Proof.Machine

/-- A run of two lists of operations ends in a next state only through the next state of the first list. -/
theorem runAll_append_eq_next {a b : List Instr} {s t : State} (h : runAll (a ++ b) s = .next t) :
    ∃ u, runAll a s = .next u ∧ runAll b u = .next t := by
  induction a generalizing s with
  | nil => exact ⟨s, rfl, h⟩
  | cons i rest ih =>
    obtain ⟨u, hu, ht⟩ := Res.andThen_eq_next h
    obtain ⟨w, hw, hb⟩ := ih ht
    exact ⟨w, by simp [runAll, hu, hw], hb⟩

/-- A run that goes on from a next state. -/
theorem runAll_append_of_next {a b : List Instr} {s u : State} (h : runAll a s = .next u) :
    runAll (a ++ b) s = runAll b u := by
  induction a generalizing s with
  | nil => cases h; rfl
  | cons i rest ih =>
    obtain ⟨w, hw, hu⟩ := Res.andThen_eq_next h
    simp [runAll, hw, ih hu]

end Sys2Proof.Machine
end

