-- ==== Sys2Proof/Tests/Slice0.lean ====
section
/-! SUPPORT. Small tests, each of one encoding or one step: ill-formed operands refused, the word of every operation
written out from 30_encoding.md, results worked out by hand from the rules named, and, for every statement with
premises, states that meet them. -/

namespace Sys2Proof.Tests

open Sys2Proof.Machine

/-! ### The machines tested -/

/-- A machine without the EGA. The parameters that 92_eei_decisions.md leaves open have values a test can name. -/
def plainCfg : Config where
  wideAccess := .refuse
  hasEga := false
  ppiSw := 0x6D
  ppiSwModeBit := 7
  ppiPortC := .pcxt
  ppiClkEnBit := 0
  ppiClkDiv := 2
  crtcPortRole := Config.defaultPortRole
  egaScript := [8, 0, 1]
  egaPlaneSize := 65536
  egaChain := .registerBit 6 1
  egaWriteClass := .always (.single 1)
  egaReadPlane := .readMapSelect
  egaModeByteAddr := 0x449
  fdcCbReq := Config.defaultCbReq
  fdcMsrIdle := 0x80
  fdcMsrResult := 0x50
  fdcStSeekEnd := 0x20
  fdcStTrack0 := 0x10
  fdcResetResult := 0xC0
  fdcGeom := Vector.replicate 4 { heads := 2, cylinders := 40, sectorsPerTrack := 9 }
  fdcPresent := #v[true, true, true, false]
  emsBase := 0xD0000
  emsOob := .fault

/-- The same machine with the EGA. -/
def egaCfg : Config := { plainCfg with hasEga := true }

/-- A machine on which ports 0x3B0 and 0x3B1 have the role `ignore`. -/
def ignoreCfg : Config := { egaCfg with crtcPortRole := (Config.defaultPortRole.set 0 .ignore).set 1 .ignore }

def plain : State := State.construct plainCfg
def ega : State := State.construct egaCfg

def plainCtx : Ctx := plain.ctx
def egaCtx : Ctx := ega.ctx

/-- The context of an InterruptController in its initialization sequence. -/
def icwCtx : Ctx := { plainCtx with icwStep := 1 }

/-- What is looked at in the state after an operation, if there is one. -/
def after {α : Type} (i : Instr) (s : State) (look : State → α) : Option α :=
  match exec i s with
  | .next t => some (look t)
  | .fault _ => none
  | .refused _ => none

/-- The cause of the fault an operation ends in, if it does. -/
def faultOf (i : Instr) (s : State) : Option Fault :=
  match exec i s with
  | .next _ => none
  | .fault f => some f
  | .refused _ => none

/-- The reason an operation is refused, if it is. -/
def refusalOf (i : Instr) (s : State) : Option Refusal :=
  match exec i s with
  | .next _ => none
  | .fault _ => none
  | .refused r => some r

/-! ### Ill-formed operands are refused (R112, R120, R125, R130) -/

theorem test_wf_picIcw0 : (.picIcw0 0x0F : Instr).wf = false := by decide
theorem test_wf_picEoi : (.picEoi 0x30 : Instr).wf = false := by decide
theorem test_wf_picEoi_without_bit5 : (.picEoi 0x0A : Instr).wf = false := by decide
theorem test_wf_picRdsel : (.picRdsel 0x2A : Instr).wf = false := by decide
theorem test_wf_picRdsel_without_selection : (.picRdsel 0x08 : Instr).wf = false := by decide
theorem test_wf_picOcwNop : (.picOcwNop 0x0A : Instr).wf = false := by decide
theorem test_wf_picSetmask : (.picSetmask 0x00 : Instr).wf = false := by decide
theorem test_wf_pitProg_select3 : (.pitProg 0xF0 : Instr).wf = false := by decide
theorem test_wf_pitProg_format0 : (.pitProg 0x40 : Instr).wf = false := by decide
theorem test_wf_pitLatch : (.pitLatch 0x50 : Instr).wf = false := by decide
theorem test_wf_pitLatch_select3 : (.pitLatch 0xC0 : Instr).wf = false := by decide
theorem test_wf_pitSel3 : (.pitSel3 0xBF : Instr).wf = false := by decide
theorem test_wf_crtcWridx : (.crtcWridx 0x3C4 0 : Instr).wf = false := by decide
theorem test_wf_crtcWrdata : (.crtcWrdata 0x3BC 0 : Instr).wf = false := by decide
theorem test_wf_crtcRddata : (.crtcRddata 0x3AF : Instr).wf = false := by decide
theorem test_wf_crtcRdidx : (.crtcRdidx 0x3CF : Instr).wf = false := by decide
theorem test_wf_crtcRdstat : (.crtcRdstat 0x3DD : Instr).wf = false := by decide
theorem test_wf_crtcWrstat : (.crtcWrstat 0x000 0 : Instr).wf = false := by decide
theorem test_wf_crtcBadport : (.crtcBadport 0x3DD .read : Instr).wf = false := by decide
theorem test_wf_egaWridx : (.egaWridx 0x3C4 0 : Instr).wf = false := by decide
theorem test_wf_egaWrdata : (.egaWrdata 0x3C5 0 : Instr).wf = false := by decide
theorem test_wf_egaRddata : (.egaRddata 0x3BC : Instr).wf = false := by decide
theorem test_wf_egaRdstat : (.egaRdstat 0x3C2 : Instr).wf = false := by decide
theorem test_wf_egaRdidx : (.egaRdidx 0x3C5 : Instr).wf = false := by decide
theorem test_wf_fdcOther_read : (.fdcOther 0x3F4 .read : Instr).wf = false := by decide
theorem test_wf_fdcOther_write : (.fdcOther 0x3F5 (.write 0) : Instr).wf = false := by decide
theorem test_wf_fdcInvalid : (.fdcInvalid 0xE7 [] : Instr).wf = false := by decide

/-! ### The word of every operation, written out from R111, R112, R113 and R130 -/

theorem test_decode_dmaWrAddr : decode plainCtx (.op 0x10000412#32) = .instr (.dmaWrAddr 2 0x12) := by decide
theorem test_decode_dmaWrCnt : decode plainCtx (.op 0x10000734#32) = .instr (.dmaWrCnt 3 0x34) := by decide
theorem test_decode_dmaRdAddr : decode plainCtx (.op 0x00000200#32) = .instr (.dmaRdAddr 1) := by decide
theorem test_decode_dmaRdCnt : decode plainCtx (.op 0x00000100#32) = .instr (.dmaRdCnt 0) := by decide
theorem test_decode_dmaRdstat : decode plainCtx (.op 0x00000800#32) = .instr (.dmaRdstat) := by decide
theorem test_decode_dmaWr08 : decode plainCtx (.op 0x10000855#32) = .instr (.dmaWr08 0x55) := by decide
theorem test_decode_picIcw0 : decode plainCtx (.op 0x10002033#32) = .instr (.picIcw0 0x33) := by decide
theorem test_decode_picEoi : decode plainCtx (.op 0x10002020#32) = .instr (.picEoi 0x20) := by decide
theorem test_decode_picRdsel : decode plainCtx (.op 0x1000200B#32) = .instr (.picRdsel 0x0B) := by decide
theorem test_decode_picOcwNop : decode plainCtx (.op 0x10002002#32) = .instr (.picOcwNop 0x02) := by decide
theorem test_decode_picRdstat : decode plainCtx (.op 0x00002000#32) = .instr (.picRdstat) := by decide
theorem test_decode_picIcwn : decode icwCtx (.op 0x10002108#32) = .instr (.picIcwn 0x08) := by decide
theorem test_decode_picSetmask : decode plainCtx (.op 0x10002108#32) = .instr (.picSetmask 0x08) := by decide
theorem test_decode_picSetmask0 : decode plainCtx (.op 0x10002100#32) = .instr (.picSetmask0) := by decide
theorem test_decode_picRdmask : decode plainCtx (.op 0x00002100#32) = .instr (.picRdmask) := by decide
theorem test_decode_pitWr : decode plainCtx (.op 0x100042FF#32) = .instr (.pitWr 2 0xFF) := by decide
theorem test_decode_pitRd : decode plainCtx (.op 0x00004100#32) = .instr (.pitRd 1) := by decide
theorem test_decode_pitProg : decode plainCtx (.op 0x100043B6#32) = .instr (.pitProg 0xB6) := by decide
theorem test_decode_pitLatch : decode plainCtx (.op 0x10004340#32) = .instr (.pitLatch 0x40) := by decide
theorem test_decode_pitSel3 : decode plainCtx (.op 0x100043C2#32) = .instr (.pitSel3 0xC2) := by decide
theorem test_decode_pitRdctl : decode plainCtx (.op 0x00004300#32) = .instr (.pitRdctl) := by decide
theorem test_decode_ppiRda : decode plainCtx (.op 0x00006000#32) = .instr (.ppiRda) := by decide
theorem test_decode_ppiRdb : decode plainCtx (.op 0x00006100#32) = .instr (.ppiRdb) := by decide
theorem test_decode_ppiRdc : decode plainCtx (.op 0x00006200#32) = .instr (.ppiRdc) := by decide
theorem test_decode_ppiRdctl : decode plainCtx (.op 0x00006300#32) = .instr (.ppiRdctl) := by decide
theorem test_decode_ppiWra : decode plainCtx (.op 0x10006001#32) = .instr (.ppiWra 0x01) := by decide
theorem test_decode_ppiWrb : decode plainCtx (.op 0x1000614C#32) = .instr (.ppiWrb 0x4C) := by decide
theorem test_decode_ppiWrc : decode plainCtx (.op 0x10006202#32) = .instr (.ppiWrc 0x02) := by decide
theorem test_decode_ppiWrctl : decode plainCtx (.op 0x10006399#32) = .instr (.ppiWrctl 0x99) := by decide
theorem test_decode_emsWrsel : decode plainCtx (.op 0x10026305#32) = .instr (.emsWrsel 3 0x05) := by decide
theorem test_decode_emsRdsel : decode plainCtx (.op 0x00026100#32) = .instr (.emsRdsel 1) := by decide
theorem test_decode_crtcWridx : decode plainCtx (.op 0x1003D40E#32) = .instr (.crtcWridx 0x3D4 0x0E) := by decide
theorem test_decode_crtcWrdata : decode plainCtx (.op 0x1003B507#32) = .instr (.crtcWrdata 0x3B5 0x07) := by decide
theorem test_decode_crtcRddata : decode plainCtx (.op 0x0003D500#32) = .instr (.crtcRddata 0x3D5) := by decide
theorem test_decode_crtcRdidx : decode plainCtx (.op 0x0003B400#32) = .instr (.crtcRdidx 0x3B4) := by decide
theorem test_decode_crtcRdstat : decode plainCtx (.op 0x0003DA00#32) = .instr (.crtcRdstat 0x3DA) := by decide
theorem test_decode_crtcWrstat : decode plainCtx (.op 0x1003BA01#32) = .instr (.crtcWrstat 0x3BA 0x01) := by decide
theorem test_decode_crtcBadport : decode plainCtx (.op 0x1003D829#32) = .instr (.crtcBadport 0x3D8 (.write 0x29)) := by decide
theorem test_decode_egaWridx : decode egaCtx (.op 0x1003D414#32) = .instr (.egaWridx 0x3D4 0x14) := by decide
theorem test_decode_egaWrdata : decode egaCtx (.op 0x1003D507#32) = .instr (.egaWrdata 0x3D5 0x07) := by decide
theorem test_decode_egaRddata : decode egaCtx (.op 0x0003B500#32) = .instr (.egaRddata 0x3B5) := by decide
theorem test_decode_egaRdstat : decode egaCtx (.op 0x0003DA00#32) = .instr (.egaRdstat 0x3DA) := by decide
theorem test_decode_egaWrseqidx : decode egaCtx (.op 0x1003C402#32) = .instr (.egaWrseqidx 0x02) := by decide
theorem test_decode_egaWrseq : decode egaCtx (.op 0x1003C50F#32) = .instr (.egaWrseq 0x0F) := by decide
theorem test_decode_egaRdseq : decode egaCtx (.op 0x0003C500#32) = .instr (.egaRdseq) := by decide
theorem test_decode_egaWrgfxidx : decode egaCtx (.op 0x1003CE08#32) = .instr (.egaWrgfxidx 0x08) := by decide
theorem test_decode_egaWrgfx : decode egaCtx (.op 0x1003CFFF#32) = .instr (.egaWrgfx 0xFF) := by decide
theorem test_decode_egaRdgfx : decode egaCtx (.op 0x0003CF00#32) = .instr (.egaRdgfx) := by decide
theorem test_decode_egaWr3c2 : decode egaCtx (.op 0x1003C263#32) = .instr (.egaWr3c2 0x63) := by decide
theorem test_decode_egaRd3c2 : decode egaCtx (.op 0x0003C200#32) = .instr (.egaRd3c2) := by decide
theorem test_decode_egaRdidx : decode egaCtx (.op 0x0003CE00#32) = .instr (.egaRdidx 0x3CE) := by decide
theorem test_decode_fdcWrdor : decode plainCtx (.op 0x1003F20C#32) = .instr (.fdcWrdor 0x0C) := by decide
theorem test_decode_fdcRddor : decode plainCtx (.op 0x0003F200#32) = .instr (.fdcRddor) := by decide
theorem test_decode_fdcRdmsr : decode plainCtx (.op 0x0003F400#32) = .instr (.fdcRdmsr) := by decide
theorem test_decode_fdcWrdata : decode plainCtx (.op 0x1003F508#32) = .instr (.fdcWrdata 0x08) := by decide
theorem test_decode_fdcRddata : decode plainCtx (.op 0x0003F500#32) = .instr (.fdcRddata) := by decide
theorem test_decode_fdcWrccr : decode plainCtx (.op 0x1003F702#32) = .instr (.fdcWrccr 0x02) := by decide
theorem test_decode_fdcRdccr : decode plainCtx (.op 0x0003F700#32) = .instr (.fdcRdccr) := by decide
theorem test_decode_fdcOther : decode plainCtx (.op 0x1003F411#32) = .instr (.fdcOther 0x3F4 (.write 0x11)) := by decide
theorem test_decode_emsMemr : decode egaCtx (.op 0x2D400100#32) = .instr (.emsMemr 0xD4001) := by decide
theorem test_decode_emsMemw : decode plainCtx (.op 0x3A00105A#32) = .instr (.emsMemw 0xA0010 0x5A) := by decide
theorem test_decode_egaMemr : decode egaCtx (.op 0x2A123400#32) = .instr (.egaMemr 0x1234) := by decide
theorem test_decode_egaMemw : decode egaCtx (.op 0x3AFFFF77#32) = .instr (.egaMemw 0xFFFF 0x77) := by decide
theorem test_decode_picCallirq : decode plainCtx (.op 0x40000007#32) = .instr (.picCallirq 0x0007) := by decide
theorem test_decode_picClearirq : decode plainCtx (.op 0x41000001#32) = .instr (.picClearirq 0x0001) := by decide
theorem test_decode_picHasint : decode plainCtx (.op 0x42000000#32) = .instr (.picHasint) := by decide
theorem test_decode_picNextint : decode plainCtx (.op 0x43000000#32) = .instr (.picNextint) := by decide
theorem test_decode_pitTick : decode plainCtx (.op 0x44000000#32) = .instr (.pitTick) := by decide
theorem test_decode_ppiKeytyped : decode plainCtx (.op 0x4500001E#32) = .instr (.ppiKeytyped 0x001E) := by decide
theorem test_decode_crtcGetreg : decode plainCtx (.op 0x46000011#32) = .instr (.crtcGetreg 0x0011) := by decide
theorem test_decode_fdcInit : decode plainCtx (.op 0x47000000#32) = .instr (.fdcInit) := by decide
theorem test_decode_egaReset : decode egaCtx (.op 0x48000000#32) = .instr (.egaReset) := by decide
theorem test_decode_evMaskapply : decode plainCtx (.op 0x50000000#32) = .instr (.evMaskapply) := by decide
theorem test_decode_evKbdreset : decode plainCtx (.op 0x50000001#32) = .instr (.evKbdreset) := by decide
theorem test_decode_fdcReadTrack : decode plainCtx (.fdcCmd [0x42, 1, 2, 3, 4, 5, 6, 7, 8]) = .instr (.fdcReadTrack 2 [1, 2, 3, 4, 5, 6, 7, 8]) := by decide
theorem test_decode_fdcSpecify : decode plainCtx (.fdcCmd [0x03, 0xDF, 0x02]) = .instr (.fdcSpecify 0 [0xDF, 0x02]) := by decide
theorem test_decode_fdcSenseDriveStatus : decode plainCtx (.fdcCmd [0x04, 0x01]) = .instr (.fdcSenseDriveStatus 0 [0x01]) := by decide
theorem test_decode_fdcWriteData : decode plainCtx (.fdcCmd [0xC5, 1, 2, 3, 4, 5, 6, 7, 8]) = .instr (.fdcWriteData 6 [1, 2, 3, 4, 5, 6, 7, 8]) := by decide
theorem test_decode_fdcReadData : decode plainCtx (.fdcCmd [0xE6, 1, 2, 3, 4, 5, 6, 7, 8]) = .instr (.fdcReadData 7 [1, 2, 3, 4, 5, 6, 7, 8]) := by decide
theorem test_decode_fdcRecalibrate : decode plainCtx (.fdcCmd [0x07, 0x01]) = .instr (.fdcRecalibrate 0 0x01) := by decide
theorem test_decode_fdcSenseInterrupt : decode plainCtx (.fdcCmd [0x08]) = .instr (.fdcSenseInterrupt 0) := by decide
theorem test_decode_fdcWriteDeletedData : decode plainCtx (.fdcCmd [0xC9, 1, 2, 3, 4, 5, 6, 7, 8]) = .instr (.fdcWriteDeletedData 6 [1, 2, 3, 4, 5, 6, 7, 8]) := by decide
theorem test_decode_fdcReadId : decode plainCtx (.fdcCmd [0x4A, 0x00]) = .instr (.fdcReadId 2 [0x00]) := by decide
theorem test_decode_fdcReadDeletedData : decode plainCtx (.fdcCmd [0xEC, 1, 2, 3, 4, 5, 6, 7, 8]) = .instr (.fdcReadDeletedData 7 [1, 2, 3, 4, 5, 6, 7, 8]) := by decide
theorem test_decode_fdcFormatTrack : decode plainCtx (.fdcCmd [0x4D, 1, 2, 3, 4, 5]) = .instr (.fdcFormatTrack 2 [1, 2, 3, 4, 5]) := by decide
theorem test_decode_fdcSeek : decode plainCtx (.fdcCmd [0x0F, 0x02, 0x0A]) = .instr (.fdcSeek 0 0x02 0x0A) := by decide
theorem test_decode_fdcScanEqual : decode plainCtx (.fdcCmd [0x11, 1, 2, 3, 4, 5, 6, 7, 8]) = .instr (.fdcScanEqual 0 [1, 2, 3, 4, 5, 6, 7, 8]) := by decide
theorem test_decode_fdcScanLowOrEqual : decode plainCtx (.fdcCmd [0x19, 1, 2, 3, 4, 5, 6, 7, 8]) = .instr (.fdcScanLowOrEqual 0 [1, 2, 3, 4, 5, 6, 7, 8]) := by decide
theorem test_decode_fdcScanHighOrEqual : decode plainCtx (.fdcCmd [0x1D, 1, 2, 3, 4, 5, 6, 7, 8]) = .instr (.fdcScanHighOrEqual 0 [1, 2, 3, 4, 5, 6, 7, 8]) := by decide
theorem test_decode_fdcInvalid : decode plainCtx (.fdcCmd [0x1F]) = .instr (.fdcInvalid 0x1F []) := by decide

/-! Words that are no operation. -/

theorem test_decode_reservedKind : decode plainCtx (.op 0x60000000#32) = .reject .reservedKind := by decide
theorem test_decode_reservedBits : decode plainCtx (.op 0x00002001#32) = .reject .reservedBits := by decide
theorem test_decode_noSuchFunction : decode plainCtx (.op 0x49000000#32) = .reject .noSuchFunction := by decide
theorem test_decode_noSuchEvent : decode plainCtx (.op 0x50000002#32) = .reject .noSuchEvent := by decide
theorem test_decode_commandLength : decode plainCtx (.fdcCmd [0x0F, 0x00]) = .reject .commandLength := by decide
theorem test_decode_unclaimed : decode plainCtx (.op 0x0003C400#32) = .unclaimedIn := by decide
theorem test_decode_ignored : decode { cfg := ignoreCfg, icwStep := 0 } (.op 0x1003B000#32) = .ignoredOut := by decide
theorem test_decode_wide : decode plainCtx (.portIn16 0x20) = .reject .wideAccess := by decide
theorem test_decode_wideRegion : decode plainCtx (.memIn16 0xCFFFF) = .reject .wideRegionAccess := by decide
theorem test_decode_callArgument : decode plainCtx (.op 0x42000001#32) = .reject .reservedBits := by decide
theorem test_decode_wide_no_wrap :
    decode { plainCtx with cfg := { plainCfg with emsBase := 0 } } (.memIn16 0xFFFFF) = .outsideIn16 := by decide
theorem test_decode_wide_exact :
    decode { plainCtx with cfg := { plainCfg with emsBase := 0x100000 } } (.memIn16 0xFFFFF) =
      .reject .wideRegionAccess := by decide

/-! ### One step of each operation. Each comment names the rule the expected values were worked out from. -/

/-- A state whose DMA channels all hold address 0xABCD and count 0xFFFF, the high byte selected or not. -/
def dmaState (high : Bool) : State :=
  { plain with dma := { ch := Vector.replicate 4 { address := 0xABCD, count := 0xFFFF, toggle := high } } }

/-- A state with an InterruptController holding these. -/
def picState (irr isr imr : Byte) (readIsr : Bool) : State :=
  { plain with pic := { Pic.initial with
      irr := irr, isr := isr, imr := imr, imrShadow := 0x77, icw := #v[0x13, 0x08, 0, 9], readIsr := readIsr } }

/-- A state whose timer counters are all this one. -/
def pitState (c : Counter) : State :=
  { picState 0x01 0 0 false with pit := { c := Vector.replicate 3 c } }

/-- A running counter with the reload value 0x0005. -/
def running (control : Byte) (count : Word16) (output : Bool) : Counter :=
  { value := 0x0005, count := count, control := control, latch := 0x8899, latched := false, enabled := true
    output := output, readToggle := false, writeToggle := false }

/-- A state with a ParallelInterface holding these. -/
def ppiState (scan : Word16) (portB : Byte) (clk2 pending : Nat) : State :=
  { picState 0x02 0 0 false with ppi := { Ppi.initial with
      scan := scan, portB := portB, clk2 := clk2, resetPending := pending, portC := 0x11, ctrl := 0x99 } }

/-- Registers 0 to 17 of a CRTController, each holding its number and 0x40. -/
def crtcRegs : Vector Byte 18 := Vector.ofFn (fun i => BitVec.ofNat 8 (0x40 + i.val))

/-- A state with this index in both CRTControllers. -/
def crtcState (base : State) (index : Byte) : State :=
  { base with
    crtc := { index := index, reg := crtcRegs, retracePhase := 2 }
    ega := { base.ega with
      crtc := { index := index, reg := crtcRegs, retracePhase := 1 }
      reg := #v[0x70, 0x71, 0x72, 0x73, 0x74, 0x75, 0x76]
      seq := #v[0x20, 0x21, 0x22, 0x23, 0x24, 0x25], seqIndex := 5
      gfx := #v[0x30, 0x31, 0x32, 0x33, 0x03, 0x35, 0x00, 0x37, 0x38], gfxIndex := 8
      vram := #v[[(1, 0xA0)], [(1, 0xA1)], [(1, 0xA2)], [(1, 0xA3)]] } }

/-- The same in the chained layout of the tested configuration: bit 1 of graphics register 6. -/
def chainedState : State :=
  { crtcState ega 0 with ega := { (crtcState ega 0).ega with gfx := #v[0, 0, 0, 0, 0, 0, 2, 0, 0] } }

/-- A state with a FloppyController holding these, its drives on cylinder 7 with the target remembered as 5. -/
def fdcState (status : Byte) (buf : Vector Byte 9) (wr rd : Nat) (current : BitVec 2) : State :=
  { plain with fdc :=
    { status := status, buf := buf, wr := wr, rd := rd, outputReg := 0x00, inputReg := 0, controlReg := 0x02
      currentDrive := current
      drive := Vector.replicate 4
        { heads := 2, cylinders := 40, sectorsPerTrack := 9, headPos := 0, cylinderPos := 7, seekTarget := 5
          resultCode := 0x20 } } }

/-- The buffer 1, 2, ..., 9. -/
def someBuf : Vector Byte 9 := #v[1, 2, 3, 4, 5, 6, 7, 8, 9]

/-- A state with a FloppyController that waits for a command. -/
def idleFdc : State := fdcState 0x80 someBuf 0 0 3

/-- A state with an ExpandedMemory whose selectors are 5, 127, 128 and 0, and one byte in page 127. -/
def emsState (cfg : Config) : State :=
  { State.construct cfg with ems := { sel := #v[5, 127, 128, 0], store := [(0x1FFFFF, 0x66)] } }


-- DMAController: R212, R213, R214, R215
theorem test_dmaWrAddr : after (.dmaWrAddr 1 0x34) (dmaState false) (fun t => t.dma.chan 1) = some { address := 0xAB34, count := 0xFFFF, toggle := true } := by decide
theorem test_dmaWrAddr_other_channels : after (.dmaWrAddr 1 0x34) (dmaState false) (fun t => t.dma.chan 2) = some { address := 0xABCD, count := 0xFFFF, toggle := false } := by decide
theorem test_dmaWrCnt : after (.dmaWrCnt 3 0x12) (dmaState true) (fun t => t.dma.chan 3) = some { address := 0xABCD, count := 0x12FF, toggle := false } := by decide
theorem test_dmaRdAddr : after (.dmaRdAddr 0) (dmaState false) (fun t => (t.result, (t.dma.chan 0).toggle)) = some (.byte 0xCD, true) := by decide
theorem test_dmaRdAddr_high : after (.dmaRdAddr 0) (dmaState true) (fun t => (t.result, (t.dma.chan 0).toggle)) = some (.byte 0xAB, false) := by decide
theorem test_dmaRdCnt : after (.dmaRdCnt 2) (dmaState true) (fun t => (t.result, (t.dma.chan 2).toggle)) = some (.byte 0xFF, false) := by decide
theorem test_dmaRdstat : after (.dmaRdstat) (dmaState true) (fun t => t.result) = some (.byte 0x0F) := by decide
theorem test_dmaRdstat_one : after .dmaRdstat ((dmaState true).setDma ((dmaState true).dma.setChan 2
    { address := 0, count := 0xFFFE, toggle := false })) (fun t => t.result) = some (.byte 0x0B) := by decide
theorem test_dmaWr08 : after (.dmaWr08 0xFF) (dmaState true) (fun t => (t.dma == (dmaState true).dma, t.result)) = some (true, .none) := by decide

-- InterruptController: R172 to R187
theorem test_picIcw0 : after (.picIcw0 0x13) (picState 3 1 0xF0 true) (fun t => (t.pic.icw, t.pic.icwStep, t.pic.imr, t.pic.imrShadow, t.pic.readIsr)) = some (#v[0x13, 0x08, 0, 9], 1, 0, 0, false) := by decide
theorem test_picIcw0_keeps : after (.picIcw0 0x13) (picState 3 1 0xF0 true) (fun t => (t.pic.irr, t.pic.isr)) = some (3, 1) := by decide
theorem test_picEoi : after (.picEoi 0x20) (picState 0 0x0A 0 true) (fun t => (t.pic.isr, t.pic.readIsr)) = some (0x08, true) := by decide
theorem test_picEoi_selects : after (.picEoi 0x2A) (picState 0 0x80 0 true) (fun t => (t.pic.isr, t.pic.readIsr)) = some (0x00, false) := by decide
theorem test_picRdsel : after (.picRdsel 0x0B) (picState 0 0x0A 0 false) (fun t => (t.pic.isr, t.pic.readIsr)) = some (0x0A, true) := by decide
theorem test_picRdsel_irr : after (.picRdsel 0x0A) (picState 0 0x0A 0 true) (fun t => t.pic.readIsr) = some false := by decide
theorem test_picOcwNop : after (.picOcwNop 0x08) (picState 0 0x0A 0 true) (fun t => (t.pic.isr, t.pic.readIsr)) = some (0x0A, true) := by decide
theorem test_picRdstat : after (.picRdstat) (picState 0x05 0x0A 0 true) (fun t => t.result) = some (.byte 0x0A) := by decide
theorem test_picRdstat_irr : after (.picRdstat) (picState 0x05 0x0A 0 false) (fun t => t.result) = some (.byte 0x05) := by decide
/-- A state at a step of the initialization sequence, in single mode or not. -/
def icwState (single : Bool) (step : BitVec 2) : State :=
  { plain with pic := { Pic.initial with
      icw := #v[if single then 0x13 else 0x11, 1, 2, 3], icwStep := step, irr := 0, imr := 0 } }

theorem test_picIcwn_single : after (.picIcwn 0x20) (icwState true 1) (fun t => (t.pic.icw, t.pic.icwStep)) = some (#v[0x13, 0x20, 2, 3], 3) := by decide
theorem test_picIcwn_cascade : after (.picIcwn 0x20) (icwState false 3) (fun t => (t.pic.icw, t.pic.icwStep)) = some (#v[0x11, 1, 2, 0x20], 0) := by decide
theorem test_picSetmask : after (.picSetmask 0xFE) (picState 0 0 1 false) (fun t => (t.pic.imr, t.pic.imrShadow, t.pic.maskApplyPending)) = some (0xFE, 0xFE, false) := by decide
theorem test_picSetmask0 : after (.picSetmask0) (picState 0 0 0xFE false) (fun t => (t.pic.imr, t.pic.imrShadow, t.pic.maskApplyPending)) = some (0xFE, 0, true) := by decide
theorem test_picRdmask : after (.picRdmask) (picState 0 0 0xFE false) (fun t => t.result) = some (.byte 0x77) := by decide
theorem test_picCallirq : after (.picCallirq 7) (picState 0x05 0 0 false) (fun t => t.pic.irr) = some 0x85 := by decide
theorem test_picClearirq : after (.picClearirq 2) (picState 0x05 0 0 false) (fun t => t.pic.irr) = some 0x01 := by decide
theorem test_picHasint : after (.picHasint) (picState 0x05 0 0x01 false) (fun t => t.result) = some (.flag true) := by decide
theorem test_picHasint_masked : after (.picHasint) (picState 0x05 0 0x05 false) (fun t => t.result) = some (.flag false) := by decide
theorem test_picNextint : after (.picNextint) (picState 0x06 0 0x02 false) (fun t => (t.result, t.pic.irr, t.pic.isr)) = some (.byte 0x0A, 0x02, 0x04) := by decide
theorem test_picNextint_none : after (.picNextint) (picState 0x06 0 0x06 false) (fun t => (t.result, t.pic.irr, t.pic.isr)) = some (.byte 0, 0x06, 0) := by decide
theorem test_evMaskapply : after .evMaskapply
    { plain with pic := { Pic.initial with imr := 0xFE, imrShadow := 0x12, maskApplyPending := true } }
    (fun t => (t.pic.imr, t.pic.maskApplyPending)) = some (0x12, false) := by decide
theorem test_evMaskapply_refused : refusalOf .evMaskapply plain = some .eventNotPending := by decide

-- IntervalTimer: R232 to R245
theorem test_pitProg : after (.pitProg 0xB6) (pitState (running 0x14 9 true)) (fun t => ((t.pit.counter 2).control, (t.pit.counter 2).enabled, (t.pit.counter 1).control)) = some (0x36, false, 0x14) := by decide
theorem test_pitLatch : after (.pitLatch 0x40) (pitState (running 0x14 9 true)) (fun t => ((t.pit.counter 1).latch, (t.pit.counter 1).latched, (t.pit.counter 0).latched)) = some (9, true, false) := by decide
theorem test_pitLatch_again : after (.pitLatch 0x00) (pitState { running 0x14 9 true with latched := true }) (fun t => (t.pit.counter 0).latch) = some 0x8899 := by decide
theorem test_pitSel3 : after (.pitSel3 0xC0) (pitState (running 0x14 9 true)) (fun t => t.pit == (pitState (running 0x14 9 true)).pit) = some true := by decide
theorem test_pitWr_low : after (.pitWr 0 0x34) (pitState (running 0x36 9 false)) (fun t => (t.pit.counter 0, t.pic.irr)) = some ({ running 0x36 9 false with value := 0x0034, writeToggle := true }, 0x01) := by decide
theorem test_pitWr_high : after (.pitWr 0 0x12) (pitState { running 0x36 9 false with writeToggle := true, enabled := false }) (fun t => (t.pit.counter 0, t.pic.irr)) = some ({ running 0x36 0x1205 true with value := 0x1205 }, 0x00) := by decide
theorem test_pitRd : after (.pitRd 1) (pitState { running 0x36 0x1234 false with latched := true }) (fun t => (t.result, (t.pit.counter 1).readToggle, (t.pit.counter 1).latched)) = some (.byte 0x99, true, true) := by decide
theorem test_pitRd_high : after (.pitRd 1) (pitState { running 0x36 0x1234 false with latched := true, readToggle := true }) (fun t => (t.result, (t.pit.counter 1).readToggle, (t.pit.counter 1).latched)) = some (.byte 0x88, false, false) := by decide
theorem test_pitTick_mode0 : after (.pitTick) { pitState (running 0x30 1 false) with pic := Pic.initial } (fun t => ((t.pit.counter 0).count, (t.pit.counter 0).output, (t.pit.counter 0).enabled, t.pic.irr)) = some (0, true, false, 0x01) := by decide
theorem test_pitTick_mode3 : after (.pitTick) (pitState (running 0x36 5 true)) (fun t => ((t.pit.counter 2).count, (t.pit.counter 2).output)) = some (4, true) := by decide

-- ParallelInterface: R282 to R291
theorem test_ppiKeytyped : after (.ppiKeytyped 0x0FFE) (ppiState 0 0 0 0) (fun t => (t.ppi.scan, t.pic.irr)) = some (0x0FFE, 0x02) := by decide
theorem test_ppiRda : after (.ppiRda) (ppiState 0x0FFF 0x7F 0 0) (fun t => (t.result, t.ppi.scan)) = some (.byte 0xAA, 0) := by decide
theorem test_ppiRda_switches : after (.ppiRda) (ppiState 0x0FFF 0x80 0 0) (fun t => (t.result, t.ppi.scan)) = some (.byte 0x6D, 0x0FFF) := by decide
theorem test_ppiRdb : after (.ppiRdb) (ppiState 0 0x4C 0 0) (fun t => t.result) = some (.byte 0x4C) := by decide
theorem test_ppiRdc : after (.ppiRdc) (ppiState 0 0x09 1 0) (fun t => (t.result, t.ppi.clk2, t.ppi.clkBit)) = some (.byte 0x26, 0, true) := by decide
theorem test_ppiRdc_clock_off : after (.ppiRdc) (ppiState 0 0x00 1 0) (fun t => (t.result, t.ppi.clk2, t.ppi.clkBit)) = some (.byte 0x0D, 1, false) := by decide
theorem test_ppiRdctl : after (.ppiRdctl) (ppiState 0 0 0 0) (fun t => t.result) = some (.byte 0x99) := by decide
theorem test_ppiWra : after (.ppiWra 0x55) (ppiState 0 0 0 0) (fun t => t.ppi == (ppiState 0 0 0 0).ppi) = some true := by decide
theorem test_ppiWrb : after (.ppiWrb 0xBF) (ppiState 0 0 0 1) (fun t => (t.ppi.portB, t.ppi.resetPending, t.pic.irr)) = some (0xBF, 2, 0x00) := by decide
theorem test_ppiWrb_quiet : after (.ppiWrb 0x40) (ppiState 0 0 0 1) (fun t => (t.ppi.portB, t.ppi.resetPending, t.pic.irr)) = some (0x40, 1, 0x02) := by decide
theorem test_ppiWrc : after (.ppiWrc 0x22) (ppiState 0 0 0 0) (fun t => (t.ppi.portC, t.ppi.portB)) = some (0x22, 0) := by decide
theorem test_ppiWrctl : after (.ppiWrctl 0x92) (ppiState 0 0 0 0) (fun t => t.ppi.ctrl) = some 0x92 := by decide
theorem test_evKbdreset : after (.evKbdreset) { ppiState 0x1E 0 0 2 with pic := Pic.initial } (fun t => (t.ppi.scan, t.ppi.resetPending, t.pic.irr)) = some (0x0FFF, 1, 0x02) := by decide
theorem test_evKbdreset_refused : refusalOf .evKbdreset plain = some .eventNotPending := by decide

-- CRTController: R312 to R319
theorem test_crtcWridx : after (.crtcWridx 0x3D4 0x11) plain (fun t => t.crtc.index) = some 0x11 := by decide
theorem test_crtcWridx_fault : faultOf (.crtcWridx 0x3D4 0x12) plain = some (.hardwareProtocolViolation .crtcIndex) := by decide
theorem test_crtcWrdata : after (.crtcWrdata 0x3D5 0x99) (crtcState plain 0x11) (fun t => (t.crtc.reg[17], t.crtc.reg[16])) = some (0x99, 0x50) := by decide
theorem test_crtcRddata : after (.crtcRddata 0x3D5) (crtcState plain 0x0E) (fun t => t.result) = some (.byte 0x4E) := by decide
theorem test_crtcRdstat : after (.crtcRdstat 0x3BA) (crtcState plain 0) (fun t => (t.result, t.crtc.retracePhase)) = some (.byte 8, 3) := by decide
theorem test_crtcWrstat : after (.crtcWrstat 0x3DA 0xFF) (crtcState plain 0) (fun t => t.crtc == (crtcState plain 0).crtc) = some true := by decide
theorem test_crtcBadport : faultOf (.crtcBadport 0x3D8 .read) plain = some (.hardwareProtocolViolation .crtcPort) := by decide
theorem test_crtcGetreg : after (.crtcGetreg 17) (crtcState plain 0) (fun t => t.result) = some (.byte 0x51) := by decide
theorem test_crtcGetreg_refused : refusalOf (.crtcGetreg 18) plain = some .registerOutOfRange := by decide

-- EGAController: R333 to R350
theorem test_egaWridx : after (.egaWridx 0x3D4 0x18) ega (fun t => t.ega.crtc.index) = some 0x18 := by decide
theorem test_egaWridx_fault : faultOf (.egaWridx 0x3D4 0x19) ega = some (.hardwareProtocolViolation .egaIndex) := by decide
theorem test_egaWrdata_wrapped : after (.egaWrdata 0x3D5 0x99) (crtcState ega 0x11) (fun t => (t.ega.crtc.reg[17], t.ega.reg[0])) = some (0x99, 0x70) := by decide
theorem test_egaWrdata_own : after (.egaWrdata 0x3D5 0x99) (crtcState ega 0x12) (fun t => (t.ega.crtc.reg[17], t.ega.reg[0])) = some (0x51, 0x99) := by decide
theorem test_egaRddata : after (.egaRddata 0x3D5) (crtcState ega 0x18) (fun t => t.result) = some (.byte 0x76) := by decide
theorem test_egaRdstat : after (.egaRdstat 0x3DA) ega (fun t => (t.result, t.ega.test, t.ega.crtc.retracePhase)) = some (.byte 8, 1, 0) := by decide
theorem test_egaRdstat_cycle : after (.egaRdstat 0x3DA) { crtcState ega 0 with ega := { (crtcState ega 0).ega with test := 3 } } (fun t => (t.result, t.ega.test, t.ega.crtc.retracePhase)) = some (.byte 0, 3, 2) := by decide
theorem test_egaWrseqidx : after (.egaWrseqidx 5) ega (fun t => t.ega.seqIndex) = some 5 := by decide
theorem test_egaWrseqidx_fault : faultOf (.egaWrseqidx 6) ega = some (.hardwareProtocolViolation .sequencerIndex) := by decide
theorem test_egaWrseq : after (.egaWrseq 0x99) (crtcState ega 0) (fun t => (t.ega.seq[5], t.ega.seq[4])) = some (0x99, 0x24) := by decide
theorem test_egaRdseq : after (.egaRdseq) (crtcState ega 0) (fun t => t.result) = some (.byte 0x25) := by decide
theorem test_egaWrgfxidx : after (.egaWrgfxidx 8) ega (fun t => t.ega.gfxIndex) = some 8 := by decide
theorem test_egaWrgfxidx_fault : faultOf (.egaWrgfxidx 9) ega = some (.hardwareProtocolViolation .graphicsIndex) := by decide
theorem test_egaWrgfx : after (.egaWrgfx 0x99) (crtcState ega 0) (fun t => (t.ega.gfx[8], t.ega.gfx[7])) = some (0x99, 0x37) := by decide
theorem test_egaRdgfx : after (.egaRdgfx) (crtcState ega 0) (fun t => t.result) = some (.byte 0x38) := by decide
theorem test_egaWr3c2 : after (.egaWr3c2 0xFF) (crtcState ega 0) (fun t => t.ega == (crtcState ega 0).ega) = some true := by decide
theorem test_egaMemw : after (.egaMemw 0x0001 0x00) (crtcState ega 0) (fun t => (t.ega.plane 1, t.ega.plane 3)) = some ([], [(1, 0xA3)]) := by decide
theorem test_egaMemw_chained : after (.egaMemw 0x0002 0x5A) chainedState (fun t => (t.ega.plane 0, t.ega.plane 1)) = some ([(1, 0xA0), (2, 0x5A)], [(1, 0xA1)]) := by decide
theorem test_egaMemr : after (.egaMemr 0x0001) (crtcState ega 0) (fun t => t.result) = some (.byte 0xA3) := by decide
theorem test_egaMemr_chained : after (.egaMemr 0x0001) chainedState (fun t => t.result) = some (.byte 0xA1) := by decide
theorem test_egaReset : after (.egaReset) (crtcState ega 3) (fun t => (t.ega.seq, t.ega.seqIndex, t.ega.crtc.index, t.ega.plane 2)) = some (#v[0, 0, 0, 0, 0, 0], 0, 3, [(1, 0xA2)]) := by decide
theorem test_egaReset_refused : refusalOf .egaReset plain = some .noEga := by decide

-- FloppyController: R382 to R398
theorem test_fdcWrdor : after (.fdcWrdor 0x0C) idleFdc (fun t => (t.fdc.outputReg, t.pic.irr, t.fdc.currentDrive)) = some (0x0C, 0x40, 3) := by decide
theorem test_fdcWrdor_reset : after (.fdcWrdor 0x03) idleFdc (fun t => (t.fdc.outputReg, t.pic.irr, t.fdc.currentDrive, (t.fdc.driveAt 1).resultCode)) = some (0x03, 0, 0, 0xC0) := by decide
theorem test_fdcRddor : after (.fdcRddor) { plain with fdc := { plain.fdc with outputReg := 0x1C } } (fun t => t.result) = some (.byte 0x1C) := by decide
theorem test_fdcRdmsr : after (.fdcRdmsr) (fdcState 0xD0 someBuf 2 0 0) (fun t => t.result) = some (.byte 0xD0) := by decide
theorem test_fdcWrdata : after (.fdcWrdata 0x07) idleFdc (fun t => (t.fdc.buf[0], t.fdc.wr)) = some (0x07, 1) := by decide
theorem test_fdcWrdata_dropped : after (.fdcWrdata 0x07) (fdcState 0xD0 someBuf 2 0 0) (fun t => (t.fdc.buf[2], t.fdc.wr)) = some (3, 2) := by decide
theorem test_fdcRddata : after (.fdcRddata) (fdcState 0xD0 someBuf 2 0 0) (fun t => (t.result, t.fdc.rd, t.fdc.status)) = some (.byte 1, 1, 0xD0) := by decide
theorem test_fdcRddata_last : after (.fdcRddata) (fdcState 0xD0 someBuf 2 1 0) (fun t => (t.result, t.fdc.rd, t.fdc.wr, t.fdc.status)) = some (.byte 2, 0, 0, 0x80) := by decide
theorem test_fdcWrccr : after (.fdcWrccr 0x01) idleFdc (fun t => t.fdc.controlReg) = some 0x01 := by decide
theorem test_fdcRdccr : after (.fdcRdccr) idleFdc (fun t => t.result) = some (.byte 0x02) := by decide
theorem test_fdcOther : after (.fdcOther 0x3F4 (.write 0x55)) idleFdc (fun t => t.fdc == idleFdc.fdc) = some true := by decide
theorem test_fdcInit : after (.fdcInit) (fdcState 0xD0 someBuf 2 1 3) (fun t => (t.fdc.status, t.fdc.buf[0], t.fdc.wr, t.fdc.currentDrive, (t.fdc.driveAt 2).resultCode)) = some (0x80, 0, 0, 0, 0xC0) := by decide
theorem test_fdcRecalibrate : after (.fdcRecalibrate 0 0x06) idleFdc (fun t => ((t.fdc.driveAt 2).cylinderPos, (t.fdc.driveAt 2).resultCode, t.fdc.currentDrive, t.pic.irr)) = some (0, 0x30, 2, 0x40) := by decide
theorem test_fdcRecalibrate_absent : refusalOf (.fdcRecalibrate 0 0x03) idleFdc = some .driveAbsent := by decide
theorem test_fdcSenseInterrupt : after (.fdcSenseInterrupt 0) idleFdc (fun t => (t.fdc.buf[0], t.fdc.buf[1], t.fdc.wr, t.fdc.status, t.fdc.currentDrive)) = some (0x20, 7, 2, 0xD0, 0) := by decide
theorem test_fdcSeek : after (.fdcSeek 0 0x01 0x0A) idleFdc (fun t => ((t.fdc.driveAt 1).cylinderPos, (t.fdc.driveAt 1).seekTarget, (t.fdc.driveAt 1).resultCode, t.pic.irr)) = some (12, 0x0A, 0x20, 0x40) := by decide
theorem test_fdcSeek_clamped : after (.fdcSeek 0 0x01 0xFF) idleFdc (fun t => ((t.fdc.driveAt 1).cylinderPos, (t.fdc.driveAt 1).seekTarget)) = some (39, 0xFF) := by decide
theorem test_fdcReadTrack : after (.fdcReadTrack 2 [1, 2, 3, 4, 5, 6, 7, 8]) idleFdc (fun t => (t.fdc.status, t.fdc.wr, t.fdc.drive == idleFdc.fdc.drive, t.pic.irr)) = some (0x80, 0, true, 0) := by decide
theorem test_fdcSpecify : after (.fdcSpecify 0 [0xDF, 0x02]) idleFdc (fun t => (t.fdc.status, t.fdc.wr, t.fdc.drive == idleFdc.fdc.drive, t.pic.irr)) = some (0x80, 0, true, 0) := by decide
theorem test_fdcSenseDriveStatus : after (.fdcSenseDriveStatus 0 [0x01]) idleFdc (fun t => (t.fdc.status, t.fdc.wr, t.fdc.drive == idleFdc.fdc.drive, t.pic.irr)) = some (0x80, 0, true, 0) := by decide
theorem test_fdcWriteData : after (.fdcWriteData 6 [1, 2, 3, 4, 5, 6, 7, 8]) idleFdc (fun t => (t.fdc.status, t.fdc.wr, t.fdc.drive == idleFdc.fdc.drive, t.pic.irr)) = some (0x80, 0, true, 0) := by decide
theorem test_fdcReadData : after (.fdcReadData 7 [1, 2, 3, 4, 5, 6, 7, 8]) idleFdc (fun t => (t.fdc.status, t.fdc.wr, t.fdc.drive == idleFdc.fdc.drive, t.pic.irr)) = some (0x80, 0, true, 0) := by decide
theorem test_fdcWriteDeletedData : after (.fdcWriteDeletedData 6 [1, 2, 3, 4, 5, 6, 7, 8]) idleFdc (fun t => (t.fdc.status, t.fdc.wr, t.fdc.drive == idleFdc.fdc.drive, t.pic.irr)) = some (0x80, 0, true, 0) := by decide
theorem test_fdcReadId : after (.fdcReadId 2 [0x00]) idleFdc (fun t => (t.fdc.status, t.fdc.wr, t.fdc.drive == idleFdc.fdc.drive, t.pic.irr)) = some (0x80, 0, true, 0) := by decide
theorem test_fdcReadDeletedData : after (.fdcReadDeletedData 7 [1, 2, 3, 4, 5, 6, 7, 8]) idleFdc (fun t => (t.fdc.status, t.fdc.wr, t.fdc.drive == idleFdc.fdc.drive, t.pic.irr)) = some (0x80, 0, true, 0) := by decide
theorem test_fdcFormatTrack : after (.fdcFormatTrack 2 [1, 2, 3, 4, 5]) idleFdc (fun t => (t.fdc.status, t.fdc.wr, t.fdc.drive == idleFdc.fdc.drive, t.pic.irr)) = some (0x80, 0, true, 0) := by decide
theorem test_fdcScanEqual : after (.fdcScanEqual 0 [1, 2, 3, 4, 5, 6, 7, 8]) idleFdc (fun t => (t.fdc.status, t.fdc.wr, t.fdc.drive == idleFdc.fdc.drive, t.pic.irr)) = some (0x80, 0, true, 0) := by decide
theorem test_fdcScanLowOrEqual : after (.fdcScanLowOrEqual 0 [1, 2, 3, 4, 5, 6, 7, 8]) idleFdc (fun t => (t.fdc.status, t.fdc.wr, t.fdc.drive == idleFdc.fdc.drive, t.pic.irr)) = some (0x80, 0, true, 0) := by decide
theorem test_fdcScanHighOrEqual : after (.fdcScanHighOrEqual 0 [1, 2, 3, 4, 5, 6, 7, 8]) idleFdc (fun t => (t.fdc.status, t.fdc.wr, t.fdc.drive == idleFdc.fdc.drive, t.pic.irr)) = some (0x80, 0, true, 0) := by decide
theorem test_fdcInvalid : after (.fdcInvalid 0x1F []) idleFdc (fun t => (t.fdc.status, t.fdc.wr, t.fdc.drive == idleFdc.fdc.drive, t.pic.irr)) = some (0x80, 0, true, 0) := by decide

-- ExpandedMemory: R431 to R436
theorem test_emsWrsel : after (.emsWrsel 2 0x11) (emsState plainCfg) (fun t => t.ems.sel) = some #v[5, 127, 0x11, 0] := by decide
theorem test_emsRdsel : after (.emsRdsel 2) (emsState plainCfg) (fun t => t.result) = some (.byte 0xFF) := by decide
theorem test_emsMemr : after (.emsMemr 0xD7FFF) (emsState plainCfg) (fun t => t.result) = some (.byte 0x66) := by decide
theorem test_emsMemw : after (.emsMemw 0xD0003 0x77) (emsState plainCfg) (fun t => t.ems.store) = some [(0x14003, 0x77), (0x1FFFFF, 0x66)] := by decide
theorem test_emsMemr_fault : faultOf (.emsMemr 0xD8000) (emsState plainCfg) =
    some (.hardwareProtocolViolation .emsSelector) := by decide

-- Reads that answer a free byte: R244, R315, R340, R342, R398
theorem test_pitRdctl : after (.pitRdctl) ega (fun t => (t.result, t.draws)) = some (.byte (Config.draw 0), 1) := rfl
theorem test_crtcRdidx : after (.crtcRdidx 0x3D4) ega (fun t => (t.result, t.draws)) = some (.byte (Config.draw 0), 1) := rfl
theorem test_egaRd3c2 : after (.egaRd3c2) ega (fun t => (t.result, t.draws)) = some (.byte (Config.draw 0), 1) := rfl
theorem test_egaRdidx : after (.egaRdidx 0x3C4) ega (fun t => (t.result, t.draws)) = some (.byte (Config.draw 0), 1) := rfl
theorem test_fdcOther_read : after (.fdcOther 0x3F0 .read) ega (fun t => (t.result, t.draws)) = some (.byte (Config.draw 0), 1) := rfl

/-! ### States that meet the premises of the statements -/

/-- A state with one request to perform. -/
def asked (s : State) (r : Request) : State := { s with requests := [r] }

/-- The plain machine with wide accesses taken as their low byte. -/
def lowByteState : State := State.construct { plainCfg with wideAccess := .lowByte }

/-- The EGA machine with another write class, the drawing state of `crtcState` in it. -/
def classState (c : WriteClassRule) : State :=
  { crtcState ega 0 with cfg := { egaCfg with egaWriteClass := c } }

theorem test_witness_DecodeReadsWhatEncodeWrites :
    (Instr.egaMemw 0xFFFF 0x5A).wf = true ∧ (Instr.egaMemw 0xFFFF 0x5A).when egaCtx = true := by decide

theorem test_witness_EncodeWritesWhatDecodeReads :
    (∀ p, Request.op 0x10002013#32 ≠ .portIn16 p) ∧ (∀ p v, Request.op 0x10002013#32 ≠ .portOut16 p v)
    ∧ decode plainCtx (.op 0x10002013#32) = .instr (.picIcw0 0x13) := ⟨nofun, nofun, by decide⟩

theorem test_witness_StepPerformsTheDecodedOperation :
    (asked plain (.op 0x00002100#32)).requests = [.op 0x00002100#32]
    ∧ (∀ p, Request.op 0x00002100#32 ≠ .portIn16 p) ∧ decode (asked plain (.op 0x00002100#32)).ctx (.op 0x00002100#32) = .instr .picRdmask
    ∧ plain.requests = [] := ⟨rfl, nofun, by decide, rfl⟩

theorem test_witness_RegisteredPortRangesAreDisjoint :
    Chip.dma ∈ peripherals plainCfg ∧ connected .dma 0x08 = true
    ∧ (peripherals plainCfg).reverse.Perm (peripherals plainCfg)
    ∧ Chip.crtc ≠ .ega ∧ connected .crtc 0x3B0 = true ∧ connected .ega 0x3B0 = true := ⟨by decide, by decide, List.reverse_perm _, by decide, by decide, by decide⟩

theorem test_witness_WidePortAccessIsRefusedOrTheLowByte :
    claimant plain.cfg 0x21 = some .pic ∧ plain.cfg.wideAccess = .refuse
    ∧ (asked plain (.portOut16 0x21 0xFF00)).requests = [.portOut16 0x21 0xFF00]
    ∧ (asked plain (.portIn16 0x21)).requests = [.portIn16 0x21]
    ∧ claimant lowByteState.cfg 0x21 = some .pic ∧ lowByteState.cfg.wideAccess = .lowByte
    ∧ step (asked lowByteState (.op (inWord 0x21))) = .next { lowByteState with result := .byte 0 } := ⟨by decide, rfl, rfl, rfl, by decide, rfl, rfl⟩

theorem test_witness_AccessesOutsideTheBlockChangeNothing :
    claimant plainCfg 0x3C4 = none ∧ claimant plainCfg 0x09 = none
    ∧ (inCrtcRange 0x3B1 = true ∧ roleOf ignoreCfg 0x3B1 = .ignore)
    ∧ inEmsWindow plainCfg 0xCFFFF = false ∧ inEmsWindow plainCfg 0xE0000 = false := by decide

theorem test_witness_EveryStepKeepsTheInvariant :
    (asked plain (.op 0x1003F508#32)).Inv
    ∧ step (asked plain (.op 0x1003F508#32)) = .next { plain with
        fdc := { plain.fdc with
          buf := #v[0, 0, 0, 0, 0, 0, 0, 0, 0], wr := 2, status := 0xD0, currentDrive := 1 } } := 
  ⟨{ config := by decide, masks := fun _ => rfl, control := by decide, cassette := by decide, crtcIndex := by decide
     egaIndex := by decide, seqIndex := by decide, gfxIndex := by decide, selfTest := by decide, planes := by decide
     phase := .inl ⟨rfl, rfl, by decide⟩
     drives := fun d => by
       have : d = 0 ∨ d = 1 ∨ d = 2 ∨ d = 3 := by revert d; decide
       rcases this with rfl | rfl | rfl | rfl <;> exact ⟨rfl, rfl, rfl, by decide⟩
     store := by decide }, rfl⟩

theorem test_witness_ConstructionMeetsTheInvariant :
    plainCfg.wf = true ∧ egaCfg.wf = true := by decide

theorem test_witness_OperationsStayInTheirChip :
    (∃ t, exec .pitTick { pitState (running 0x30 1 false) with pic := Pic.initial } = .next t ∧ t.pic.irr = 0x01)
    ∧ (∃ t, exec (.ppiKeytyped 0) plain = .next t ∧ t.pic.irr = 0x02)
    ∧ (∃ t, exec (.fdcWrdor 0x04) plain = .next t ∧ t.pic.irr = 0x40)
    ∧ (∃ t, exec (.dmaWrAddr 0 0) plain = .next t) ∧ (∃ t, exec (.emsWrsel 0 0) plain = .next t)
    ∧ (∃ t, exec .egaReset ega = .next t) ∧ ∃ t, exec (.crtcWridx 0x3D4 0) plain = .next t := 
  ⟨⟨_, rfl, rfl⟩, ⟨_, rfl, rfl⟩, ⟨_, rfl, rfl⟩, ⟨_, rfl⟩, ⟨_, rfl⟩, ⟨_, rfl⟩, ⟨_, rfl⟩⟩

theorem test_witness_ArgumentsOutsideTheContractAreRefused :
    8 ≤ (8#16).toNat ∧ 18 ≤ (18#16).toNat
    ∧ chained (classState .absent).cfg (classState .absent).ega.gfx = false
    ∧ (classState .absent).cfg.egaWriteClass = .absent
    ∧ plain.pic.maskApplyPending = false ∧ plain.ppi.resetPending = 0 ∧ plain.cfg.hasEga = false
    ∧ (asked ega (.memIn16 0x9FFFF)).requests = [.memIn16 0x9FFFF]
    ∧ (0x9FFFF#20).toNat + 1 = 0xA0000 ∧ ega.cfg.hasEga = true
    ∧ (asked plain (.memOut16 0xDFFFF 0)).requests = [.memOut16 0xDFFFF 0]
    ∧ plain.cfg.emsBase ≤ (0xDFFFF#20).toNat ∧ (0xDFFFF#20).toNat < plain.cfg.emsBase + 0x10000 := by decide

theorem test_witness_PlainRegisterAccesses :
    (17#16).toNat < 18 ∧ plain.cfg.hasEga = false ∧ ega.cfg.hasEga = true := by decide

theorem test_witness_CallAndClearReachOneRequestBit :
    (7#16).toNat < 8 := by decide

theorem test_witness_HasIntTellsWhetherALineIsDeliverable :
    after .picHasint (picState 0x80 0 0 false) (fun t => t.result) = some (.flag true)
    ∧ after .picHasint (picState 0x80 0 0x80 false) (fun t => t.result) = some (.flag false) := by decide

theorem test_witness_NextIntTakesTheLowestDeliverableLine :
    ((picState 0x81 0 0x01 false).pic.irr.getLsbD 7 = true ∧ (picState 0x81 0 0x01 false).pic.imr.getLsbD 7 = false
      ∧ ∀ m, m < 7 → (picState 0x81 0 0x01 false).pic.irr.getLsbD m = true →
          (picState 0x81 0 0x01 false).pic.imr.getLsbD m = true)
    ∧ ((picState 0x81 0 0 false).pic.irr.getLsbD 0 = true ∧ (picState 0x81 0 0 false).pic.imr.getLsbD 0 = false)
    ∧ ∀ n, n < 8 → (picState 0x06 0 0x06 false).pic.irr.getLsbD n = true →
        (picState 0x06 0 0x06 false).pic.imr.getLsbD n = true := by decide

theorem test_witness_EndOfInterruptClearsTheLowestLineInService :
    ((0x20#8).getLsbD 4 = false ∧ (0x20#8).getLsbD 5 = true ∧ 0x20#8 &&& 0x8A ≠ 0x0A)
    ∧ ((0x2A#8).getLsbD 4 = false ∧ (0x2A#8).getLsbD 5 = true ∧ 0x2A#8 &&& 0x8A = 0x0A)
    ∧ (picState 0 0 0 false).pic.isr = 0
    ∧ (picState 0 0x80 0 false).pic.isr.getLsbD 7 = true
    ∧ ∀ m, m < 7 → (picState 0 0x80 0 false).pic.isr.getLsbD m = false := by decide

theorem test_witness_OperationCommandsSelectTheStatusRegister :
    (Instr.picEoi 0x2A).wf = true ∧ (Instr.picRdsel 0x0B).wf = true ∧ (Instr.picOcwNop 0x00).wf = true := by decide

theorem test_witness_InitializationWordsAreStoredInOrder :
    (0x10#8).getLsbD 4 = true ∧ (icwState true 1).pic.icwStep ≠ 0 ∧ (icwState true 1).pic.icw[0].getLsbD 1 = true
    ∧ (icwState false 3).pic.icwStep ≠ 0 ∧ (icwState false 3).pic.icw[0].getLsbD 1 = false := by decide

theorem test_witness_NonZeroMaskIsInForceAtOnce :
    (0x01#8) ≠ 0 ∧ plain.pic.icwStep = 0 := by decide

theorem test_witness_ZeroMaskWaitsForItsEvent :
    after .picSetmask0 plain (fun t => t.pic.maskApplyPending) = some true := by decide

theorem test_witness_TwoRequestsAreServedInOrder :
    (∀ n, n < 8 → (picState 0x81 0 0 false).pic.irr.getLsbD n = (n == 0 || n == 7))
    ∧ (picState 0x81 0 0 false).pic.imr = 0 ∧ (picState 0x81 0 0 false).pic.isr = 0 := by decide

theorem test_witness_ControlWordProgramsOrLatchesItsCounter :
    ((ctlSelect 0xB6).toNat = (2 : Fin 3).val ∧ ctlFormat 0xB6 ≠ 0)
    ∧ ((ctlSelect 0x00).toNat = (0 : Fin 3).val ∧ ctlFormat 0x00 = 0)
    ∧ (plain.pit.counter 0).latched = false
    ∧ ((pitState { running 0x14 9 true with latched := true }).pit.counter 0).latched = true := by decide

theorem test_witness_CounterWriteLoadsByFormat :
    (plain.pit.counter 0).control.extractLsb' 4 2 = 0
    ∧ ((pitState (running 0x36 9 true)).pit.counter 1).control.extractLsb' 4 2 = 3
    ∧ ((pitState (running 0x36 9 true)).pit.counter 1).writeToggle = false
    ∧ ((pitState (running 0x14 9 true)).pit.counter 0).control.extractLsb' 4 2 = 1
    ∧ ((pitState (running 0x24 9 true)).pit.counter 2).control.extractLsb' 4 2 = 2
    ∧ ((pitState { running 0x36 9 true with writeToggle := true }).pit.counter 0).control.extractLsb' 4 2 = 3
    ∧ ((pitState { running 0x36 9 true with writeToggle := true }).pit.counter 0).writeToggle = true := by decide

theorem test_witness_CounterReadReturnsLatchOrCountByFormat :
    (plain.pit.counter 2).control.extractLsb' 4 2 = 0 ∧ (plain.pit.counter 2).latched = false
    ∧ ((pitState { running 0x14 9 true with latched := true }).pit.counter 0).latched = true
    ∧ ((pitState (running 0x14 9 true)).pit.counter 0).control.extractLsb' 4 2 = 1
    ∧ ((pitState (running 0x24 9 true)).pit.counter 0).control.extractLsb' 4 2 = 2
    ∧ ((pitState (running 0x36 9 true)).pit.counter 0).control.extractLsb' 4 2 = 3
    ∧ ((pitState (running 0x36 9 true)).pit.counter 0).readToggle = false
    ∧ ((pitState { running 0x36 9 true with readToggle := true }).pit.counter 0).readToggle = true := by decide

theorem test_witness_TickMovesEachCounterByItsMode :
    (plain.pit.counter 0).enabled = false ∧ (running 0x30 1 false).enabled = true
    ∧ (running 0x30 1 false).control.extractLsb' 1 3 = 0 ∧ (running 0x32 1 false).control.extractLsb' 1 3 = 1
    ∧ (running 0x34 1 false).control.extractLsb' 1 3 = 2 ∧ (running 0x36 1 false).control.extractLsb' 1 3 = 3
    ∧ (running 0x38 1 false).control.extractLsb' 1 3 = 4 ∧ (running 0x3A 1 false).control.extractLsb' 1 3 = 5
    ∧ (running 0x3C 1 false).control.extractLsb' 1 3 = 6 ∧ (running 0x3E 1 false).control.extractLsb' 1 3 = 7 := by decide

/-- A counter just loaded with a value, its output at the level the mode starts from. -/
def loaded (control : Byte) (value : Word16) (output : Bool) : Counter :=
  { running control value output with value := value }

theorem test_witness_ModeZeroAssertsItsOutputOnce :
    (∃ c, c = ((pitState (loaded 0x30 0 false)).setPic Pic.initial).pit.counter 0 ∧ c.enabled = true ∧ c.mode = .m0 ∧ c.output = false ∧ c.count = c.value ∧ c.value = 0)
    ∧ (∃ c, c = ((pitState (loaded 0x30 1 false)).setPic Pic.initial).pit.counter 0 ∧ c.enabled = true ∧ c.mode = .m0 ∧ c.output = false ∧ c.count = c.value ∧ c.value = 1)
    ∧ ((pitState (loaded 0x30 0 false)).setPic Pic.initial).pic.irr.getLsbD 0 = false := by
  refine ⟨⟨_, rfl, ?_⟩, ⟨_, rfl, ?_⟩, ?_⟩ <;> decide

theorem test_witness_ModeTwoPulsesAtTheReloadRate :
    (∃ c, c = ((pitState (loaded 0x34 0 true)).setPic Pic.initial).pit.counter 0 ∧ c.enabled = true ∧ c.mode = .m2 ∧ c.output = true ∧ c.count = c.value ∧ c.value ≠ 1 ∧ c.value = 0)
    ∧ (∃ c, c = ((pitState (loaded 0x34 2 true)).setPic Pic.initial).pit.counter 0 ∧ c.enabled = true ∧ c.mode = .m2 ∧ c.output = true ∧ c.count = c.value ∧ c.value ≠ 1 ∧ c.value = 2)
    ∧ ((pitState (loaded 0x34 0 true)).setPic Pic.initial).pic.irr.getLsbD 0 = false := by
  refine ⟨⟨_, rfl, ?_⟩, ⟨_, rfl, ?_⟩, ?_⟩ <;> decide

theorem test_witness_ModeThreeIsASquareWave :
    (∃ c, c = ((pitState (loaded 0x36 0 true)).setPic Pic.initial).pit.counter 0 ∧ c.enabled = true ∧ c.mode = .m3 ∧ c.output = true ∧ c.count = c.value ∧ c.value ≠ 1 ∧ c.value = 0)
    ∧ (∃ c, c = ((pitState (loaded 0x36 3 true)).setPic Pic.initial).pit.counter 0 ∧ c.enabled = true ∧ c.mode = .m3 ∧ c.output = true ∧ c.count = c.value ∧ c.value ≠ 1 ∧ c.value = 3)
    ∧ ((pitState (loaded 0x36 0 true)).setPic Pic.initial).pic.irr.getLsbD 0 = false := by
  refine ⟨⟨_, rfl, ?_⟩, ⟨_, rfl, ?_⟩, ?_⟩ <;> decide

theorem test_witness_PortZeroReadsSwitchesSentinelOrScanCode :
    (ppiState 0 0x80 0 0).ppi.portB.getLsbD plainCfg.ppiSwModeBit.val = true
    ∧ (ppiState 0x0FFF 0x7F 0 0).ppi.portB.getLsbD plainCfg.ppiSwModeBit.val = false
    ∧ (ppiState 0x0FFF 0x7F 0 0).ppi.scan = 0x0FFF ∧ (ppiState 0x0FFE 0x7F 0 0).ppi.scan ≠ 0x0FFF := by decide

theorem test_witness_PortOneWriteQueuesTheKeyboardReset :
    (0xBF#8).getLsbD 6 = false ∧ (0x40#8).getLsbD 6 = true ∧ 0 < (ppiState 0 0 0 1).ppi.resetPending := by decide

theorem test_witness_PortTwoReadCarriesTheCassetteClock :
    (ppiState 0 0x00 0 0).ppi.portB.getLsbD plainCfg.ppiClkEnBit.val = false
    ∧ (ppiState 0 0x01 0 0).ppi.portB.getLsbD plainCfg.ppiClkEnBit.val = true
    ∧ (ppiState 0 0x01 1 0).ppi.clk2 + 1 = plainCfg.ppiClkDiv ∧ (ppiState 0 0x01 0 0).ppi.clk2 + 1 ≠ plainCfg.ppiClkDiv
    ∧ plainCfg.ppiPortC = .pcxt ∧ ({ plainCfg with ppiPortC := .free } : Config).ppiPortC = .free := by decide

theorem test_witness_IndexInRangeIsStored :
    (0x11#8).toNat < 0x12 ∧ (0x18#8).toNat ≤ 0x18 ∧ (5#8).toNat ≤ 5 ∧ (8#8).toNat ≤ 8 := by decide

theorem test_witness_CrtcDataPortReachesTheSelectedRegister :
    (crtcState plain 0x11).crtc.index.toNat < 18 := by decide

/-- A run with two status reads, through both status ports, a write between them and a tick after them. -/
def mixedRounds : List (List Instr × Word16) := [([], 0x3BA), ([.crtcWridx 0x3D4 0x11, .picHasint], 0x3DA)]

theorem test_witness_CrtcStatusReadsCycle :
    (∀ q, Instr.crtcWridx 0x3D4 0x11 ≠ .crtcRdstat q) ∧ (∃ t, exec (.crtcWridx 0x3D4 0x11) plain = .next t)
    ∧ (∀ round ∈ mixedRounds, ∀ i ∈ round.1, ∀ q, i ≠ .crtcRdstat q)
    ∧ (∀ i ∈ [Instr.pitTick], ∀ q, i ≠ .crtcRdstat q)
    ∧ ∃ t, runAll (mixedRounds.flatMap (fun round => round.1 ++ [.crtcRdstat round.2]) ++ [.pitTick]) plain = .next t
        ∧ t.crtc.retracePhase = 2 := ⟨nofun, ⟨_, rfl⟩, by simp [mixedRounds], by simp, _, rfl, rfl⟩

theorem test_witness_EgaDataPortReachesTheSelectedRegister :
    (crtcState ega 0x11).ega.crtc.index.toNat < 18
    ∧ (0x12 ≤ (crtcState ega 0x12).ega.crtc.index.toNat ∧ (crtcState ega 0x12).ega.crtc.index.toNat ≤ 0x18)
    ∧ (0x12 ≤ (crtcState ega 0x18).ega.crtc.index.toNat ∧ (crtcState ega 0x18).ega.crtc.index.toNat ≤ 0x18) := by decide

theorem test_witness_EgaBankPortsReachTheSelectedRegister :
    (crtcState ega 0).ega.seqIndex.toNat < 6 ∧ (crtcState ega 0).ega.gfxIndex.toNat < 9 := by decide

theorem test_witness_EgaStatusReadsTheScriptThenTheCycle :
    ega.ega.test < ega.cfg.egaScript.length ∧ { ega.ega with test := 2 }.test < ega.cfg.egaScript.length
    ∧ ega.cfg.egaScript.length ≤ { ega.ega with test := 3 }.test := by decide

theorem test_witness_EgaResetZeroesTheEgaOwnedState :
    (crtcState ega 3).cfg.hasEga = true ∧ 0 < (crtcState ega 3).cfg.egaScript.length := by decide

theorem test_witness_EgaWindowWriteStoresInOnePlane :
    chained chainedState.cfg chainedState.ega.gfx = true
    ∧ (∀ c ∈ [WriteClassRule.always (.single 3), .always (.oddEven true), .always .roundRobin],
        chained (classState c).cfg (classState c).ega.gfx = false)
    ∧ writeClass (classState (.always (.single 3))).cfg (classState .absent).ega.seq = some (.single 3)
    ∧ writeClass (classState (.always (.oddEven true))).cfg (classState .absent).ega.seq = some (.oddEven true)
    ∧ writeClass (classState (.always .roundRobin)).cfg (classState .absent).ega.seq = some .roundRobin := by decide

theorem test_witness_EgaWindowReadAnswersOnePlane :
    (∀ p, (chainedState.ega.plane p).wf = true) ∧ chained chainedState.cfg chainedState.ega.gfx = true
    ∧ chained (crtcState ega 0).cfg (crtcState ega 0).ega.gfx = false ∧ (crtcState ega 0).cfg.egaReadPlane = .readMapSelect
    ∧ writeClass (classState (.always (.single 3))).cfg (classState .absent).ega.seq =
        some (.single (readPlane egaCfg (classState .absent).ega.gfx)) := by decide

theorem test_witness_EmsWindowAccessReachesTheTranslatedByte :
    inEmsWindow plainCfg 0xD7FFF = true ∧ plainCfg.emsOob = .fault
    ∧ ((emsState plainCfg).ems.selector (BitVec.ofNat 2 ((0xD7FFF - 0xD0000) / 16384))).toNat = 127
    ∧ (emsState plainCfg).ems.store.wf = true
    ∧ (emsState plainCfg).ems.translate plainCfg 0xD7FFF = 127 * 16384 + (0xD7FFF - 0xD0000) % 16384 := by decide

theorem test_witness_EmsSelectorBeyondTheStoreFaultsOrWraps :
    inEmsWindow plainCfg 0xD8000 = true
    ∧ 128 ≤ ((emsState plainCfg).ems.selector (BitVec.ofNat 2 ((0xD8000 - 0xD0000) / 16384))).toNat
    ∧ plainCfg.emsOob = .fault ∧ ({ plainCfg with emsOob := .mask } : Config).emsOob = .mask := by decide

theorem test_witness_FloppyEnableBitResetsTheController :
    (0x04#8).getLsbD 2 = true ∧ (0xFB#8).getLsbD 2 = false := by decide

theorem test_witness_FloppyDataWriteAppendsUntilTheLength :
    (fdcState 0xD0 someBuf 2 0 0).fdc.status ≠ plainCfg.fdcMsrIdle ∧ idleFdc.fdc.status = plainCfg.fdcMsrIdle
    ∧ idleFdc.fdc.wr + 1 < plainCfg.fdcCbReq[(((someBuf.set 0 0x0F)[0]).extractLsb' 0 5).toNat]'(BitVec.isLt _)
    ∧ ((someBuf.set 0 0x1F)[0]).extractLsb' 0 5 = 0x1F
    ∧ plainCfg.fdcCbReq[(((someBuf.set 0 0x1F)[0]).extractLsb' 0 5).toNat]'(BitVec.isLt _) ≤ idleFdc.fdc.wr + 1
    ∧ (fdcState 0x80 (someBuf.set 0 0x06) 8 0 0).fdc.wr < 9
    ∧ plainCfg.fdcCbReq[((((someBuf.set 0 0x06).set 8 0xFF)[0]).extractLsb' 0 5).toNat]'(BitVec.isLt _) ≤ 8 + 1 := by decide

theorem test_witness_FloppyCommandIsItsBytesInOrder :
    fdcCommand 0x0F [0x01, 0x0A] = some (.fdcSeek 0 0x01 0x0A) ∧ fdcCommand 0x1F [] = some (.fdcInvalid 0x1F []) := by decide

theorem test_witness_FloppyDataReadDrainsTheResult :
    idleFdc.fdc.status = plainCfg.fdcMsrIdle ∧ (fdcState 0xD0 someBuf 2 1 0).fdc.status ≠ plainCfg.fdcMsrIdle
    ∧ (fdcState 0xD0 someBuf 2 1 0).fdc.rd < 9
    ∧ (fdcState 0xD0 someBuf 2 1 0).fdc.rd + 1 = (fdcState 0xD0 someBuf 2 1 0).fdc.wr
    ∧ (fdcState 0xD0 someBuf 2 0 0).fdc.rd + 1 ≠ (fdcState 0xD0 someBuf 2 0 0).fdc.wr := by decide

theorem test_witness_RecalibrateReturnsTheDriveToCylinderZero :
    ((2#2).toNat = (0x06#8).toNat % 4 ∧ plainCfg.fdcPresent[2] = true)
    ∧ ((3#2).toNat = (0x03#8).toNat % 4 ∧ plainCfg.fdcPresent[3] = false)
    ∧ idleFdc.fdc.status = plainCfg.fdcMsrIdle ∧ idleFdc.fdc.wr = 0 ∧ idleFdc.cfg.fdcCbReq[0x07] = 2 := by decide

theorem test_witness_SenseInterruptReportsTheCurrentDrive :
    idleFdc.cfg.wf = true ∧ idleFdc.fdc.status = plainCfg.fdcMsrIdle ∧ idleFdc.fdc.wr = 0 := by decide

theorem test_witness_SeekMovesByTheDifferenceOfTargets :
    ((1#2).toNat = (0x01#8).toNat % 4 ∧ plainCfg.fdcPresent[1] = true ∧ idleFdc.cfg.fdcCbReq[0x0F] = 3)
    ∧ ((3#2).toNat = (0xFF#8).toNat % 4 ∧ plainCfg.fdcPresent[3] = false)
    ∧ plain.fdc.status = plainCfg.fdcMsrIdle ∧ plain.fdc.wr = 0
    ∧ (plain.fdc.driveAt 1).cylinderPos = (plain.fdc.driveAt 1).seekTarget.toNat := by decide

theorem test_witness_UnimplementedFloppyCommandsAreCountedAndDropped :
    (encode (.fdcReadData 7 [1, 2, 3, 4, 5, 6, 7, 8]) = .fdcCmd [0xE6, 1, 2, 3, 4, 5, 6, 7, 8]
      ∧ (Instr.fdcReadData 7 [1, 2, 3, 4, 5, 6, 7, 8]).when idleFdc.ctx = true)
    ∧ (encode (.fdcInvalid 0x1F []) = .fdcCmd [0x1F] ∧ (Instr.fdcInvalid 0x1F []).wf = true
      ∧ (Instr.fdcInvalid 0x1F []).when idleFdc.ctx = true)
    ∧ idleFdc.fdc.status = plainCfg.fdcMsrIdle ∧ idleFdc.fdc.wr = 0 := by decide

/-! ### What the next step fetches -/

theorem test_withFetchWord_runs :
    step (State.reset.withFetchWord 32 0x10002013) = exec (.picIcw0 0x13) State.reset := rfl

theorem test_withFetchWord_event :
    step (State.reset.withFetchWord 32 0x50000000) =
      exec .evMaskapply { State.reset with pic := { Pic.initial with maskApplyPending := true } } := rfl

theorem test_decodeTableWord : decodeTableWord 32 0x10004336 = some (.pitProg 0x36)
    ∧ decodeTableWord 8 0x0F = some (.fdcSeek 0 0 0) := by decide

end Sys2Proof.Tests
end

section
/-! SUPPORT. Construction (R21, R490): the constraints of a configuration taken apart, and from them the invariant of
the constructed block. -/

namespace Sys2Proof.Machine

/-! ### The constraints on a configuration -/

/-- A condition on every entry of a table that a word indexes is one on the entry of every word. -/
theorem toList_all_iff_bitVec {α : Type} {w : Nat} (table : Vector α (2 ^ w)) (p : α → Bool) :
    table.toList.all p = true ↔ ∀ i : BitVec w, p (table[i.toNat]'i.isLt) = true := by
  simp only [List.all_eq_true, Vector.mem_toList_iff]
  constructor
  · exact fun h i => h _ (Vector.getElem_mem i.isLt)
  · intro h x hx
    obtain ⟨i, hi, rfl⟩ := Vector.mem_iff_getElem.mp hx
    simpa [Nat.mod_eq_of_lt hi] using h (BitVec.ofNat w i)

/-- A condition on every entry of P_FDC_CBREQ is one on the length of every opcode (R387). -/
theorem fdcCbReq_all_iff (c : Config) (p : Nat → Bool) :
    c.fdcCbReq.toList.all p = true ↔ ∀ op, p (cbReq c op) = true :=
  toList_all_iff_bitVec (w := 5) c.fdcCbReq p

/-- A condition on every entry of P_FDC_GEOM is one on the geometry of every drive (R392). -/
theorem fdcGeom_all_iff (c : Config) (p : Geometry → Bool) :
    c.fdcGeom.toList.all p = true ↔ ∀ d : BitVec 2, p (c.fdcGeom[d.toNat]'d.isLt) = true :=
  toList_all_iff_bitVec (w := 2) c.fdcGeom p

/-- The constraints of 92_eei_decisions.md section 2, one by one. -/
theorem Config.wf_iff (c : Config) : c.wf = true ↔
    1 ≤ c.ppiClkDiv ∧ 1 ≤ c.egaPlaneSize
    ∧ (∀ op, 1 ≤ cbReq c op ∧ cbReq c op ≤ 9)
    ∧ (cbReq c 0x07 = 2 ∧ cbReq c 0x08 = 1 ∧ cbReq c 0x0F = 3)
    ∧ (c.fdcMsrResult ≠ 0 ∧ c.fdcMsrIdle &&& c.fdcMsrResult = 0)
    ∧ c.fdcStSeekEnd &&& c.fdcStTrack0 = 0
    ∧ (∀ d : BitVec 2, 1 ≤ (c.fdcGeom[d.toNat]'d.isLt).cylinders)
    ∧ (c.hasEga = true → c.emsBase + 0x10000 ≤ 0xA0000 ∨ 0xB0000 ≤ c.emsBase) := by
  obtain ⟨h7, h8, hF⟩ : cbReq c 0x07 = c.fdcCbReq[0x07] ∧ cbReq c 0x08 = c.fdcCbReq[0x08]
    ∧ cbReq c 0x0F = c.fdcCbReq[0x0F] := ⟨rfl, rfl, rfl⟩
  simp only [Config.wf, Bool.and_eq_true, Bool.or_eq_true, decide_eq_true_eq, fdcCbReq_all_iff, fdcGeom_all_iff,
    ← h7, ← h8, ← hF, and_assoc, or_assoc]
  cases c.hasEga <;> simp

/-- The configuration of the reset machine meets the constraints, whatever its free values are (logs 10, 12, 16, 17). -/
theorem Config.machine_wf : Config.machine.wf = true := by
  have cylinders (d : BitVec 2) : 1 ≤ (Config.machine.fdcGeom[d.toNat]'d.isLt).cylinders := by
    have : d = 0 ∨ d = 1 ∨ d = 2 ∨ d = 3 := by revert d; decide
    rcases this with rfl | rfl | rfl | rfl <;> exact Nat.succ_pos _
  have track0 : Config.machine.fdcStSeekEnd &&& Config.machine.fdcStTrack0 = 0 := by
    show 0x20#8 &&& (Config.openTrack0 &&& ~~~0x20#8) = 0
    rw [BitVec.and_comm Config.openTrack0, ← BitVec.and_assoc, BitVec.and_not_self]
    exact BitVec.zero_and
  rw [Config.wf_iff]
  exact ⟨Nat.succ_pos _, by decide, by decide, by decide, by decide, track0, cylinders, fun _ => .inr (by decide)⟩

/-! ### Construction -/

/-- The select field of every constructed counter is 0 (R27, R29). -/
theorem Pit.initial_control_select (k : Fin 3) : (Pit.initial.counter k).control &&& 0xC0 = 0 := by
  revert k; decide

/-- Every constructed plane is empty: it reads 0 in every cell (R35). -/
theorem Ega.initial_plane (p : BitVec 2) : Ega.initial.plane p = [] := by
  revert p; decide

/-- A drive of the constructed controller is sound: its head is on cylinder 0, which its geometry has (R36). -/
theorem Drive.initial_sound {g : Geometry} (h : 1 ≤ g.cylinders) : (Drive.initial g).sound g := ⟨rfl, rfl, rfl, h⟩

/-- The constructed block meets the invariant: what is not 0 or empty rests on a constraint of the configuration, the
clock divider, the lengths of the floppy commands and the cylinders of the drives. -/
theorem State.construct_inv {cfg : Config} (h : cfg.wf = true) : (State.construct cfg).Inv := by
  obtain ⟨hdiv, -, hlen, -, -, -, hcyl, -⟩ := (Config.wf_iff cfg).mp h
  exact {
    config := h
    masks := fun _ => rfl
    control := Pit.initial_control_select
    cassette := hdiv
    crtcIndex := Nat.zero_lt_succ _
    egaIndex := Nat.zero_le _
    seqIndex := Nat.zero_le _
    gfxIndex := Nat.zero_le _
    selfTest := Nat.zero_le _
    planes := fun p => by
      show (Ega.initial.plane p).wf = true ∧ (Ega.initial.plane p).within cfg.egaPlaneSize = true
      rw [Ega.initial_plane]
      exact ⟨rfl, rfl⟩
    phase := .inl ⟨rfl, rfl, (hlen _).1⟩
    drives := fun d => by
      show ((Fdc.initial cfg).driveAt d).sound _
      rw [Fdc.driveAt_initial]
      exact Drive.initial_sound (hcyl d)
    store := ⟨rfl, rfl⟩ }

/-- Settles O9: each clause of the invariant holds of the constructed block by a constraint of its configuration, and
the configuration of the reset machine meets the constraints. -/
theorem constructionMeetsTheInvariant : Obligations.ConstructionMeetsTheInvariant :=
  ⟨fun _ h => State.construct_inv h, State.construct_inv Config.machine_wf⟩

end Sys2Proof.Machine
end

section
/-! SUPPORT. Noninterference of the chips (R46, R455): one rule per way of changing the state and per way an operation
ends, then one line per operation. -/

namespace Sys2Proof.Machine

/-! ### What an operation of a chip may change -/

/-- The line of the request register that a chip reaches from outside the InterruptController (R455). -/
def lineOf : Chip → Option Nat
  | .pit => some 0
  | .ppi => some 1
  | .fdc => some 6
  | .dma => none
  | .pic => none
  | .ems => none
  | .crtc => none
  | .ega => none

/-- From one InterruptController to another, only the request bit of `line` may differ; no line, no difference. -/
structure Pic.KeepsAllBut (line : Option Nat) (p p' : Pic) : Prop where
  rest : p' = { p with irr := p'.irr }
  others : ∀ n, some n ≠ line → p'.irr.getLsbD n = p.irr.getLsbD n

/-- What an operation of `chip` leaves alone: the configuration, the operations to come, every other chip, and of
another chip's InterruptController all but the line that `chip` reaches. -/
structure ChipFrame (chip : Chip) (s t : State) : Prop where
  cfg : t.cfg = s.cfg
  requests : t.requests = s.requests
  dma : chip ≠ .dma → t.dma = s.dma
  pit : chip ≠ .pit → t.pit = s.pit
  ppi : chip ≠ .ppi → t.ppi = s.ppi
  crtc : chip ≠ .crtc → t.crtc = s.crtc
  ega : chip ≠ .ega → t.ega = s.ega
  fdc : chip ≠ .fdc → t.fdc = s.fdc
  ems : chip ≠ .ems → t.ems = s.ems
  pic : chip ≠ .pic → Pic.KeepsAllBut (lineOf chip) s.pic t.pic

/-- An outcome stays in `chip`: its next state, if it has one, differs from `s` only where `ChipFrame` allows. -/
def Res.StaysIn (chip : Chip) (s : State) (r : Res) : Prop := ∀ t, r = .next t → ChipFrame chip s t

/-! ### The request register -/

/-- Setting a bit of a byte leaves every other bit. -/
theorem getLsbD_setBit_of_ne (b : Byte) {n m : Nat} (h : m ≠ n) : (setBit b n).getLsbD m = b.getLsbD m := by
  by_cases hm : m < 8
  · simp [getLsbD_setBit b hm, h]
  · simp [BitVec.getLsbD_of_ge _ m (Nat.le_of_not_lt hm)]

/-- Clearing a bit of a byte leaves every other bit. -/
theorem getLsbD_clearBit_of_ne (b : Byte) {n m : Nat} (h : m ≠ n) : (clearBit b n).getLsbD m = b.getLsbD m := by
  by_cases hm : m < 8
  · simp [getLsbD_clearBit b hm, h]
  · simp [BitVec.getLsbD_of_ge _ m (Nat.le_of_not_lt hm)]

namespace Pic.KeepsAllBut

theorem refl (line : Option Nat) (p : Pic) : KeepsAllBut line p p := ⟨rfl, fun _ _ => rfl⟩

theorem callIrq {n : Nat} {p q : Pic} (h : KeepsAllBut (some n) p q) : KeepsAllBut (some n) p (q.callIrq n) where
  rest := by rw [h.rest]; rfl
  others m hm := (getLsbD_setBit_of_ne q.irr fun e => hm (congrArg some e)).trans (h.others m hm)

theorem clearIrq {n : Nat} {p q : Pic} (h : KeepsAllBut (some n) p q) : KeepsAllBut (some n) p (q.clearIrq n) where
  rest := by rw [h.rest]; rfl
  others m hm := (getLsbD_clearBit_of_ne q.irr fun e => hm (congrArg some e)).trans (h.others m hm)

/-- A chip that reaches no line leaves the InterruptController as it was. -/
theorem eq_of_none {p q : Pic} (h : KeepsAllBut none p q) : q = p := by
  have irr : q.irr = p.irr := BitVec.eq_of_getLsbD_eq fun n _ => h.others n nofun
  rw [h.rest, irr]

end Pic.KeepsAllBut

/-! ### One rule per update of the state -/

namespace ChipFrame

variable {chip : Chip} {s u : State}

theorem refl : ChipFrame chip s s :=
  ⟨rfl, rfl, fun _ => rfl, fun _ => rfl, fun _ => rfl, fun _ => rfl, fun _ => rfl, fun _ => rfl, fun _ => rfl,
    fun _ => .refl _ _⟩

theorem setPic {x : Pic} : ChipFrame .pic s (s.setPic x) := { refl (chip := .pic) (s := s) with pic := (absurd rfl ·) }
theorem setDma {x : Dma} : ChipFrame .dma s (s.setDma x) := { refl (chip := .dma) (s := s) with dma := (absurd rfl ·) }
theorem setPit {x : Pit} : ChipFrame .pit s (s.setPit x) := { refl (chip := .pit) (s := s) with pit := (absurd rfl ·) }
theorem setPpi {x : Ppi} : ChipFrame .ppi s (s.setPpi x) := { refl (chip := .ppi) (s := s) with ppi := (absurd rfl ·) }
theorem setCrtc {x : Crtc} : ChipFrame .crtc s (s.setCrtc x) :=
  { refl (chip := .crtc) (s := s) with crtc := (absurd rfl ·) }
theorem setEga {x : Ega} : ChipFrame .ega s (s.setEga x) := { refl (chip := .ega) (s := s) with ega := (absurd rfl ·) }
theorem setFdc {x : Fdc} : ChipFrame .fdc s (s.setFdc x) := { refl (chip := .fdc) (s := s) with fdc := (absurd rfl ·) }
theorem setEms {x : Ems} : ChipFrame .ems s (s.setEms x) := { refl (chip := .ems) (s := s) with ems := (absurd rfl ·) }

theorem setResult {x : Result} (h : ChipFrame chip s u) : ChipFrame chip s (u.setResult x) := { h with }

theorem tookDraws {n : Nat} (h : ChipFrame chip s u) : ChipFrame chip s (u.tookDraws n) := { h with }

theorem raiseLine {n : Nat} (h : ChipFrame chip s u) (hn : lineOf chip = some n) : ChipFrame chip s (u.raiseLine n) :=
  { h with pic := fun hc => by have k := h.pic hc; rw [hn] at k ⊢; exact k.callIrq }

theorem dropLine {n : Nat} (h : ChipFrame chip s u) (hn : lineOf chip = some n) : ChipFrame chip s (u.dropLine n) :=
  { h with pic := fun hc => by have k := h.pic hc; rw [hn] at k ⊢; exact k.clearIrq }

theorem ite {p : Prop} [Decidable p] {v : State} (h : ChipFrame chip s u) (h' : ChipFrame chip s v) :
    ChipFrame chip s (if p then u else v) := by
  split <;> assumption

end ChipFrame

/-- The data port of the FloppyController stays in its chip: line 6 is the one it reaches. -/
theorem FdcFrame.chipFrame {s t : State} (h : FdcFrame s t) : ChipFrame .fdc s t where
  cfg := h.cfg
  requests := h.requests
  dma _ := h.dma
  pit _ := h.pit
  ppi _ := h.ppi
  crtc _ := h.crtc
  ega _ := h.ega
  fdc := (absurd rfl ·)
  ems _ := h.ems
  pic _ := by
    rcases h.pic with same | raised
    · rw [same]; exact .refl _ _
    · rw [raised]; exact (Pic.KeepsAllBut.refl _ _).callIrq

/-! ### One rule per way an operation ends -/

namespace Res.StaysIn

variable {chip : Chip} {s u : State}

theorem next (h : ChipFrame chip s u) : StaysIn chip s (.next u) := fun _ e => by cases e; exact h

theorem done (h : ChipFrame chip s u) : StaysIn chip s (done u) := next h.setResult

theorem answer {v : Byte} (h : ChipFrame chip s u) : StaysIn chip s (answer v u) := next h.setResult

theorem answerFlag {b : Bool} (h : ChipFrame chip s u) : StaysIn chip s (answerFlag b u) := next h.setResult

theorem answerDraw : StaysIn chip s (answerDraw s) := answer ChipFrame.refl.tookDraws

theorem violation {v : Violation} : StaysIn chip s (violation v) := fun _ => nofun

theorem refused {e : Refusal} : StaysIn chip s (.refused e) := fun _ => nofun

theorem ite {p : Prop} [Decidable p] {r r' : Res} (h : StaysIn chip s r) (h' : StaysIn chip s r') :
    StaysIn chip s (if p then r else r') := by
  split <;> assumption

theorem fdcDataWrite {v : Byte} : StaysIn .fdc s (fdcDataWrite v s) := fun _ h => (fdcDataWrite_frame h).chipFrame

theorem fdcCommandBytes {bs : List Byte} : StaysIn .fdc s (fdcCommandBytes bs s) :=
  fun _ h => (fdcCommandBytes_frame h).chipFrame

end Res.StaysIn

/-! ### Operations that take more than one such rule -/

open Res (StaysIn)

/-- A scan code reaches the ParallelInterface and line 1 (R282). -/
theorem ChipFrame.typeKey {s u : State} (h : ChipFrame .ppi s u) (code : Word16) :
    ChipFrame .ppi s (u.typeKey code) :=
  .raiseLine { h with ppi := (absurd rfl ·) } rfl

/-- A window write reaches the EGAController, whatever its class (R347). -/
theorem State.writeByClass_frame (s : State) (c : WriteClass) (off : Word16) (v : Byte) :
    ChipFrame .ega s (s.writeByClass c off v) := by
  cases c with
  | single p => exact .setEga
  | oddEven high => exact .setEga
  | roundRobin => exact ChipFrame.setEga.tookDraws

theorem execEgaMemw_staysIn (off : Word16) (v : Byte) (s : State) : StaysIn .ega s (execEgaMemw off v s) := by
  unfold execEgaMemw
  cases writeClass s.cfg s.ega.seq with
  | none => exact .ite (.done .setEga) .refused
  | some c => exact .ite (.done .setEga) (.done (s.writeByClass_frame c off v))

theorem execFdcOther_staysIn (p : Word16) (acc : PortAccess) (s : State) : StaysIn .fdc s (execFdcOther p acc s) := by
  cases acc with
  | read => exact .answerDraw
  | write v => exact .done .refl

/-! ### Every operation -/

/-- Every operation stays in its chip. -/
theorem exec_staysIn (s : State) : ∀ i : Instr, StaysIn (chipOf i) s (exec i s)
  | .dmaWrAddr _ _ => .done .setDma
  | .dmaWrCnt _ _ => .done .setDma
  | .dmaRdAddr _ => .answer .setDma
  | .dmaRdCnt _ => .answer .setDma
  | .dmaRdstat => .answer .refl
  | .dmaWr08 _ => .done .refl
  | .picIcw0 _ => .done .setPic
  | .picEoi _ => .done .setPic
  | .picRdsel _ => .done .setPic
  | .picOcwNop _ => .done .setPic
  | .picRdstat => .answer .refl
  | .picIcwn _ => .done .setPic
  | .picSetmask _ => .done .setPic
  | .picSetmask0 => .done .setPic
  | .picRdmask => .answer .refl
  | .picCallirq _ => .ite (.done .setPic) .refused
  | .picClearirq _ => .ite (.done .setPic) .refused
  | .picHasint => .answerFlag .refl
  | .picNextint => .answer .setPic
  | .evMaskapply => .ite (.done .setPic) .refused
  | .pitWr _ _ => .done (.ite (.dropLine .setPit rfl) .setPit)
  | .pitRd _ => .ite .answerDraw (.answer .setPit)
  | .pitProg _ => .done .setPit
  | .pitLatch _ => .done .setPit
  | .pitSel3 _ => .done .refl
  | .pitRdctl => .answerDraw
  | .pitTick => .done (.ite (.raiseLine .setPit rfl) .setPit)
  | .ppiRda => .ite (.answer .refl) (.ite (.answer .setPpi) (.answer .refl))
  | .ppiRdb => .answer .refl
  | .ppiRdc => .answer .setPpi
  | .ppiRdctl => .answer .refl
  | .ppiWra _ => .done .refl
  | .ppiWrb _ => .done (.ite (.dropLine .setPpi rfl) .setPpi)
  | .ppiWrc _ => .done .setPpi
  | .ppiWrctl _ => .done .setPpi
  | .ppiKeytyped code => .done (ChipFrame.refl.typeKey code)
  | .evKbdreset => .ite (.done (ChipFrame.setPpi.typeKey 0x0FFF)) .refused
  | .emsWrsel _ _ => .done .setEms
  | .emsRdsel _ => .answer .refl
  | .emsMemr _ => .ite (.ite (.answer .refl) .violation) .answerDraw
  | .emsMemw _ _ => .ite (.ite (.done .setEms) .violation) (.done .refl)
  | .crtcWridx _ _ => .ite .violation (.done .setCrtc)
  | .crtcWrdata _ _ => .done .setCrtc
  | .crtcRddata _ => .answer .refl
  | .crtcRdidx _ => .answerDraw
  | .crtcRdstat _ => .answer .setCrtc
  | .crtcWrstat _ _ => .done .refl
  | .crtcBadport _ _ => .violation
  | .crtcGetreg _ => .ite (.answer .refl) .refused
  | .egaWridx _ _ => .ite .violation (.done .setEga)
  | .egaWrdata _ _ => .ite (.done .setEga) (.done .setEga)
  | .egaRddata _ => .ite (.answer .refl) (.answer .refl)
  | .egaRdstat _ => .answer .setEga
  | .egaWrseqidx _ => .ite .violation (.done .setEga)
  | .egaWrseq _ => .done .setEga
  | .egaRdseq => .answer .refl
  | .egaWrgfxidx _ => .ite .violation (.done .setEga)
  | .egaWrgfx _ => .done .setEga
  | .egaRdgfx => .answer .refl
  | .egaWr3c2 _ => .done .refl
  | .egaRd3c2 => .answerDraw
  | .egaRdidx _ => .answerDraw
  | .egaMemr _ => .answer .refl
  | .egaMemw off v => execEgaMemw_staysIn off v s
  | .egaReset => .ite (.done .setEga) .refused
  | .fdcWrdor _ => .done (.ite (.raiseLine .setFdc rfl) .setFdc)
  | .fdcRddor => .answer .refl
  | .fdcRdmsr => .answer .refl
  | .fdcWrdata _ => .fdcDataWrite
  | .fdcRddata => .ite .answerDraw (.answer .setFdc)
  | .fdcWrccr _ => .done .setFdc
  | .fdcRdccr => .answer .refl
  | .fdcOther p acc => execFdcOther_staysIn p acc s
  | .fdcInit => .done .setFdc
  | .fdcReadTrack _ _ => .fdcCommandBytes
  | .fdcSpecify _ _ => .fdcCommandBytes
  | .fdcSenseDriveStatus _ _ => .fdcCommandBytes
  | .fdcWriteData _ _ => .fdcCommandBytes
  | .fdcReadData _ _ => .fdcCommandBytes
  | .fdcRecalibrate _ _ => .fdcCommandBytes
  | .fdcSenseInterrupt _ => .fdcCommandBytes
  | .fdcWriteDeletedData _ _ => .fdcCommandBytes
  | .fdcReadId _ _ => .fdcCommandBytes
  | .fdcReadDeletedData _ _ => .fdcCommandBytes
  | .fdcFormatTrack _ _ => .fdcCommandBytes
  | .fdcSeek _ _ _ => .fdcCommandBytes
  | .fdcScanEqual _ _ => .fdcCommandBytes
  | .fdcScanLowOrEqual _ _ => .fdcCommandBytes
  | .fdcScanHighOrEqual _ _ => .fdcCommandBytes
  | .fdcInvalid _ _ => .fdcCommandBytes

/-- Settles O11: every operation meets the frame of its chip, by the rules for the updates it is made of; the clauses
about the request register are that frame's, read at the line the chip reaches. -/
theorem operationsStayInTheirChip : Obligations.OperationsStayInTheirChip := by
  intro i s t h
  obtain ⟨cfg, requests, dma, pit, ppi, crtc, ega, fdc, ems, pic⟩ := exec_staysIn s i t h
  have onlyLine {c : Chip} {line : Nat} (hc : chipOf i = c) (hp : c ≠ .pic) (hl : lineOf c = some line) (n : Nat)
      (hn : n ≠ line) : t.pic.irr.getLsbD n = s.pic.irr.getLsbD n := by
    subst hc
    exact (pic hp).others n (by simpa [hl] using hn)
  have noLine {c : Chip} (hc : chipOf i = c) (hp : c ≠ .pic) (hl : lineOf c = none) : t.pic = s.pic := by
    subst hc
    exact (hl ▸ pic hp).eq_of_none
  refine ⟨cfg, requests, dma, pit, ppi, crtc, ega, fdc, ems, fun hp => (pic hp).rest, ?_,
    (onlyLine · nofun rfl), (onlyLine · nofun rfl), (onlyLine · nofun rfl)⟩
  rintro (hc | hc | hc | hc)
  all_goals exact noLine hc nofun rfl

end Sys2Proof.Machine
end

section
/-! SUPPORT. Refusals: the guard of each operation that has one, on the side where it refuses, and the step that a
request decoded as no operation takes. -/

namespace Sys2Proof

/-! ### The regions (R158) -/

theorem egaWindowHas_iff (n : Nat) : egaWindowHas n = true ↔ 0xA0000 ≤ n ∧ n < 0xB0000 := by
  simp [egaWindowHas]

theorem emsWindowHas_iff (c : Config) (n : Nat) :
    emsWindowHas c n = true ↔ c.emsBase ≤ n ∧ n < c.emsBase + 0x10000 := by
  simp [emsWindowHas]

theorem regionHas_iff (c : Config) (n : Nat) : regionHas c n = true ↔
    (c.hasEga = true ∧ 0xA0000 ≤ n ∧ n < 0xB0000) ∨ (c.emsBase ≤ n ∧ n < c.emsBase + 0x10000) := by
  rw [regionHas, Bool.or_eq_true, Bool.and_eq_true, egaWindowHas_iff, emsWindowHas_iff]

/-- One byte in a region is enough for the refusal of a two-byte access (log 24). -/
theorem decodeMemWide_of_byte_in_region {c : Ctx} {a : Addr} (outside : Access)
    (h : ∃ n, (n = a.toNat ∨ n = a.toNat + 1) ∧ regionHas c.cfg n = true) :
    decodeMemWide c a outside = .reject .wideRegionAccess := by
  refine if_pos (Bool.or_eq_true_iff.mpr ?_)
  obtain ⟨n, rfl | rfl, hn⟩ := h
  · exact .inl hn
  · exact .inr hn

end Sys2Proof

namespace Sys2Proof.Machine

/-! ### Steps -/

/-- A step with a request left performs it. -/
theorem step_of_requests {s : State} {r : Request} {rest : List Request} (h : s.requests = r :: rest) :
    step s = perform r (s.setRequests rest) := by
  obtain ⟨none, -⟩ | ⟨r', rest', first, hstep⟩ := step_cases s
  · cases none.symm.trans h
  · cases first.symm.trans h
    exact hstep

/-- A request that is no operation is refused by its name, in whatever width it came. -/
theorem perform_of_reject {s : State} {r : Request} {e : DecodeError} (h : decode s.ctx r = .reject e) :
    perform r s = .refused (.notAnOperation e) := by
  cases r <;> simp [perform, h, runAccess]

/-- Taking a request off the list leaves the context in which it is decoded. -/
theorem step_of_reject {s : State} {r : Request} {rest : List Request} {e : DecodeError}
    (hr : s.requests = r :: rest) (h : decode s.ctx r = .reject e) : step s = .refused (.notAnOperation e) := by
  rw [step_of_requests hr]
  exact perform_of_reject h

/-! ### Operations outside their contract -/

/-- R171. -/
theorem exec_picCallirq_of_le (s : State) {line : Word16} (h : 8 ≤ line.toNat) :
    exec (.picCallirq line) s = .refused .lineOutOfRange := if_neg h.not_gt

/-- R171. -/
theorem exec_picClearirq_of_le (s : State) {line : Word16} (h : 8 ≤ line.toNat) :
    exec (.picClearirq line) s = .refused .lineOutOfRange := if_neg h.not_gt

/-- R319. -/
theorem exec_crtcGetreg_of_le (s : State) {i : Word16} (h : 18 ≤ i.toNat) :
    exec (.crtcGetreg i) s = .refused .registerOutOfRange := if_neg h.not_gt

theorem writeClass_of_absent {c : Config} (h : c.egaWriteClass = .absent) (seq : Vector Byte 6) :
    writeClass c seq = none := by
  simp [writeClass, h]

/-- R347: the class is looked at outside the chained layout only. -/
theorem exec_egaMemw_of_absent {s : State} (hc : chained s.cfg s.ega.gfx = false)
    (hw : s.cfg.egaWriteClass = .absent) (off : Word16) (v : Byte) :
    exec (.egaMemw off v) s = .refused .noWriteClass := by
  show execEgaMemw off v s = _
  simp [execEgaMemw, hc, writeClass_of_absent hw]

/-- Log 20. -/
theorem exec_evMaskapply_of_not_pending {s : State} (h : s.pic.maskApplyPending = false) :
    exec .evMaskapply s = .refused .eventNotPending := if_neg (Bool.eq_false_iff.mp h)

/-- Log 20. -/
theorem exec_evKbdreset_of_not_pending {s : State} (h : s.ppi.resetPending = 0) :
    exec .evKbdreset s = .refused .eventNotPending := if_neg h.not_gt

/-- Log 25. -/
theorem exec_egaReset_of_no_ega {s : State} (h : s.cfg.hasEga = false) :
    exec .egaReset s = .refused .noEga := if_neg (Bool.eq_false_iff.mp h)

/-- Settles O14: each operation by its guard; the two-byte accesses because a byte in a region makes the decoder reject
the request, whichever direction it has. -/
theorem argumentsOutsideTheContractAreRefused : Obligations.ArgumentsOutsideTheContractAreRefused := by
  intro s
  refine ⟨fun _ h => ⟨exec_picCallirq_of_le s h, exec_picClearirq_of_le s h⟩, fun _ => exec_crtcGetreg_of_le s,
    fun off v hc hw => exec_egaMemw_of_absent hc hw off v, exec_evMaskapply_of_not_pending,
    exec_evKbdreset_of_not_pending, exec_egaReset_of_no_ega, ?_⟩
  intro a v rest touches
  have rejected (outside : Access) : decodeMemWide s.ctx a outside = .reject .wideRegionAccess := by
    simp only [← regionHas_iff] at touches
    exact decodeMemWide_of_byte_in_region outside touches
  exact ⟨(step_of_reject · (rejected _)), (step_of_reject · (rejected _))⟩

end Sys2Proof.Machine
end

section
/-! SUPPORT. The decoder names what it decodes (30_encoding.md R111, R112, R113, R130): every branch of `decode` that
gives an operation gives one whose conditions hold and whose encoding is the request. -/

namespace Sys2Proof

/-! ### An operation that names a request -/

/-- The operation is one that the table gives the request in this context: its operands are admitted, its condition
holds, and the request is its encoding. -/
structure Instr.Names (c : Ctx) (r : Request) (i : Instr) : Prop where
  wf : i.wf = true
  when : i.when c = true
  encode : encode i = r

/-- The access, if it is an operation, is one that names the request. -/
def Access.Names (c : Ctx) (r : Request) (a : Access) : Prop := ∀ i, a = .instr i → i.Names c r

namespace Access.Names

variable {c : Ctx} {r : Request}

theorem instr {i : Instr} (h : i.Names c r) : Names c r (.instr i) := fun _ e => by cases e; exact h

theorem reject {e : DecodeError} : Names c r (.reject e) := fun _ => nofun

theorem ite {p : Prop} [Decidable p] {a b : Access} (ha : p → Names c r a) (hb : ¬p → Names c r b) :
    Names c r (if p then a else b) := by
  split
  · exact ha ‹_›
  · exact hb ‹_›

theorem iteReject {p : Prop} [Decidable p] {a : Access} {e : DecodeError} (ha : p → Names c r a) :
    Names c r (if p then a else .reject e) := .ite ha fun _ => .reject

theorem of_word_eq {v w : OpWord} {a : Access} (h : v = w) (ha : Names c (.op v) a) : Names c (.op w) a := h ▸ ha

end Access.Names

/-! ### The port a chip claims -/

/-- The ports of a range, one by one. -/
theorem exists_port_offset {p : Word16} (lo n : Nat) (h : lo ≤ p.toNat ∧ p.toNat ≤ lo + n) :
    ∃ k : Fin (n + 1), p = BitVec.ofNat 16 (lo + k) := by
  obtain ⟨hlo, hhi⟩ := h
  exact ⟨⟨p.toNat - lo, by omega⟩, by simp [Nat.add_sub_cancel' hlo]⟩

theorem connected_of_claimant {c : Config} {p : Word16} {chip : Chip} (h : claimant c p = some chip) :
    connected chip p = true := List.find?_some (p := (connected · p)) h

/-- The EGAController claims a port only where it is registered (R157). -/
theorem hasEga_of_claimant {c : Config} {p : Word16} (h : claimant c p = some .ega) : c.hasEga = true := by
  have registered : .ega ∈ peripherals c := List.mem_of_find?_eq_some h
  simpa [peripherals] using registered

theorem dmaPort_dmaChannel {p : Word16} (h : connected .dma p = true) (h8 : p ≠ 0x08) :
    dmaPort (dmaChannel p) (p.getLsbD 0) = p := by
  obtain ⟨k, rfl⟩ := exists_port_offset 0 8 ⟨Nat.zero_le _, (connected_iff .dma p).mp h⟩
  revert k
  decide

theorem eq_picMaskPort {p : Word16} (h : connected .pic p = true) (h20 : p ≠ 0x20) : p = 0x21 := by
  obtain ⟨k, rfl⟩ := exists_port_offset 0x20 1 ((connected_iff .pic p).mp h)
  revert k
  decide

theorem pitPort_counterOf {p : Word16} {counter : Fin 3} (h : connected .pit p = true)
    (hc : counterOf (p.extractLsb' 0 2) = some counter) : pitPort counter = p := by
  obtain ⟨k, rfl⟩ := exists_port_offset 0x40 3 ((connected_iff .pit p).mp h)
  revert k counter
  decide

theorem eq_pitControlPort {p : Word16} (h : connected .pit p = true)
    (hc : counterOf (p.extractLsb' 0 2) = none) : p = 0x43 := by
  obtain ⟨k, rfl⟩ := exists_port_offset 0x40 3 ((connected_iff .pit p).mp h)
  revert k
  decide

theorem eq_ppiControlPort {p : Word16} (h : connected .ppi p = true) (h60 : p ≠ 0x60) (h61 : p ≠ 0x61)
    (h62 : p ≠ 0x62) : p = 0x63 := by
  obtain ⟨k, rfl⟩ := exists_port_offset 0x60 3 ((connected_iff .ppi p).mp h)
  revert k
  decide

theorem emsPort_emsSubWindow {p : Word16} (h : connected .ems p = true) : emsPort (emsSubWindow p) = p := by
  obtain ⟨k, rfl⟩ := exists_port_offset 0x260 3 ((connected_iff .ems p).mp h)
  revert k
  decide

theorem isFdcOther_read {p : Word16} (h : connected .fdc p = true) (h2 : p ≠ 0x3F2) (h4 : p ≠ 0x3F4)
    (h5 : p ≠ 0x3F5) (h7 : p ≠ 0x3F7) : isFdcOther p .read = true := by
  obtain ⟨k, rfl⟩ := exists_port_offset 0x3F0 7 ((connected_iff .fdc p).mp h)
  revert k
  decide

theorem isFdcOther_write {p : Word16} (v : Byte) (h : connected .fdc p = true) (h2 : p ≠ 0x3F2) (h5 : p ≠ 0x3F5)
    (h7 : p ≠ 0x3F7) : isFdcOther p (.write v) = true := by
  show isFdcOther p (.write 0) = true
  obtain ⟨k, rfl⟩ := exists_port_offset 0x3F0 7 ((connected_iff .fdc p).mp h)
  revert k
  decide

/-- Beside the two ranges the EGAController claims five ports (R81). -/
theorem inCrtcRange_of_connected_ega {p : Word16} (h : connected .ega p = true) (h2 : p ≠ 0x3C2) (h4 : p ≠ 0x3C4)
    (h5 : p ≠ 0x3C5) (hE : p ≠ 0x3CE) (hF : p ≠ 0x3CF) : inCrtcRange p = true := by
  simpa only [connected, Bool.or_eq_true, beq_iff_eq, h2, h4, h5, hE, hF, or_false] using h

/-! ### Accesses of width 8 to ports (R112) -/

theorem decodePicCommand_names (c : Ctx) (v : Byte) : (decodePicCommand v).Names c (.op (outWord 0x20 v)) := by
  unfold decodePicCommand
  split_ifs with icw eoi sel
  · exact ⟨icw, rfl, rfl⟩
  · exact ⟨by simp only [Instr.wf, icw, eoi]; rfl, rfl, rfl⟩
  · exact ⟨by simp only [Instr.wf, icw, eoi, sel]; rfl, rfl, rfl⟩
  · exact ⟨by simp only [Instr.wf, icw, eoi, sel]; rfl, rfl, rfl⟩

theorem decodePicMask_names (c : Ctx) (v : Byte) :
    (decodePicMask c.icwStep v).Names c (.op (outWord 0x21 v)) := by
  unfold decodePicMask
  split_ifs with sequence mask
  · exact ⟨rfl, bne_iff_ne.mpr sequence, rfl⟩
  · exact ⟨bne_iff_ne.mpr mask, beq_iff_eq.mpr (not_not.mp sequence), rfl⟩
  · exact ⟨rfl, beq_iff_eq.mpr (not_not.mp sequence), by rw [not_not.mp mask]; rfl⟩

theorem decodePitControl_names (c : Ctx) (v : Byte) : (decodePitControl v).Names c (.op (outWord 0x43 v)) := by
  unfold decodePitControl
  split_ifs with select latch
  · exact ⟨beq_iff_eq.mpr select, rfl, rfl⟩
  · exact ⟨Bool.and_eq_true_iff.mpr ⟨bne_iff_ne.mpr select, beq_iff_eq.mpr latch⟩, rfl, rfl⟩
  · exact ⟨Bool.and_eq_true_iff.mpr ⟨bne_iff_ne.mpr select, bne_iff_ne.mpr latch⟩, rfl, rfl⟩

/-- The role of the port is the condition of the operation, the CRTC ranges are what its encoding admits (R311). -/
theorem decodeCrtcIn_names (c : Ctx) {p : Word16} (h : inCrtcRange p = true) :
    (decodeCrtcIn c.cfg p).Names c (.op (inWord p)) := by
  unfold decodeCrtcIn
  cases role : roleOf c.cfg p with
  | index => exact .instr ⟨h, by simp [Instr.when, role], rfl⟩
  | data =>
    exact .ite (fun e => .instr ⟨h, by simp [Instr.when, role, e], rfl⟩)
      (fun e => .instr ⟨h, by simp [Instr.when, role, e], rfl⟩)
  | status =>
    exact .ite (fun e => .instr ⟨h, by simp [Instr.when, role, e], rfl⟩)
      (fun e => .instr ⟨h, by simp [Instr.when, role, e], rfl⟩)
  | ignore => exact fun _ => nofun
  | unrecognised => exact .instr ⟨h, by simp [Instr.when, role], rfl⟩

theorem decodeCrtcOut_names (c : Ctx) {p : Word16} (v : Byte) (h : inCrtcRange p = true) :
    (decodeCrtcOut c.cfg p v).Names c (.op (outWord p v)) := by
  unfold decodeCrtcOut
  cases role : roleOf c.cfg p with
  | index =>
    exact .ite (fun e => .instr ⟨h, by simp [Instr.when, role, e], rfl⟩)
      (fun e => .instr ⟨h, by simp [Instr.when, role, e], rfl⟩)
  | data =>
    exact .ite (fun e => .instr ⟨h, by simp [Instr.when, role, e], rfl⟩)
      (fun e => .instr ⟨h, by simp [Instr.when, role, e], rfl⟩)
  | status => exact .instr ⟨h, by simp [Instr.when, role], rfl⟩
  | ignore => exact fun _ => nofun
  | unrecognised => exact .instr ⟨h, by simp [Instr.when, role], rfl⟩

/-- An IN by the chip that claims its port: each branch has either found the one port of its operation, or the operand
from which `encode` assembles the port again (R114). -/
theorem decodeIn_names (c : Ctx) (p : Word16) : (decodeIn c p).Names c (.op (inWord p)) := by
  unfold decodeIn
  cases claim : claimant c.cfg p with
  | none => exact fun _ => nofun
  | some chip =>
    have port := connected_of_claimant claim
    cases chip with
    | dma =>
      refine .ite (fun h => .instr (h ▸ ⟨rfl, rfl, rfl⟩)) fun h8 => ?_
      have assembled := dmaPort_dmaChannel port h8
      exact .ite (fun odd => .instr ⟨rfl, rfl, by rw [encode, ← odd, assembled]⟩)
        (fun even => .instr ⟨rfl, rfl, by rw [encode, ← Bool.eq_false_iff.mpr even, assembled]⟩)
    | pic =>
      exact .ite (fun h => .instr (h ▸ ⟨rfl, rfl, rfl⟩))
        (fun h => .instr (eq_picMaskPort port h ▸ ⟨rfl, rfl, rfl⟩))
    | pit =>
      dsimp only
      cases counter : counterOf (p.extractLsb' 0 2) with
      | some k => exact .instr ⟨rfl, rfl, by rw [encode, pitPort_counterOf port counter]⟩
      | none => exact .instr (eq_pitControlPort port counter ▸ ⟨rfl, rfl, rfl⟩)
    | ppi =>
      exact .ite (fun h => .instr (h ▸ ⟨rfl, rfl, rfl⟩)) fun h60 =>
        .ite (fun h => .instr (h ▸ ⟨rfl, rfl, rfl⟩)) fun h61 =>
        .ite (fun h => .instr (h ▸ ⟨rfl, rfl, rfl⟩)) fun h62 =>
        .instr (eq_ppiControlPort port h60 h61 h62 ▸ ⟨rfl, rfl, rfl⟩)
    | ems => exact .instr ⟨rfl, rfl, by rw [encode, emsPort_emsSubWindow port]⟩
    | fdc =>
      exact .ite (fun h => .instr (h ▸ ⟨rfl, rfl, rfl⟩)) fun h2 =>
        .ite (fun h => .instr (h ▸ ⟨rfl, rfl, rfl⟩)) fun h4 =>
        .ite (fun h => .instr (h ▸ ⟨rfl, rfl, rfl⟩)) fun h5 =>
        .ite (fun h => .instr (h ▸ ⟨rfl, rfl, rfl⟩)) fun h7 =>
        .instr ⟨isFdcOther_read port h2 h4 h5 h7, rfl, rfl⟩
    | crtc => exact decodeCrtcIn_names c port
    | ega =>
      have present := hasEga_of_claimant claim
      exact .ite (fun h => .instr (h ▸ ⟨rfl, present, rfl⟩)) fun h2 =>
        .ite (fun h => .instr ⟨by simpa [Instr.wf] using h, present, rfl⟩) fun hidx =>
        .ite (fun h => .instr (h ▸ ⟨rfl, present, rfl⟩)) fun h5 =>
        .ite (fun h => .instr (h ▸ ⟨rfl, present, rfl⟩)) fun hF =>
        decodeCrtcIn_names c
          (inCrtcRange_of_connected_ega port h2 (fun h => hidx (.inl h)) h5 (fun h => hidx (.inr h)) hF)

theorem decodeOut_names (c : Ctx) (p : Word16) (v : Byte) : (decodeOut c p v).Names c (.op (outWord p v)) := by
  unfold decodeOut
  cases claim : claimant c.cfg p with
  | none => exact fun _ => nofun
  | some chip =>
    have port := connected_of_claimant claim
    cases chip with
    | dma =>
      refine .ite (fun h => .instr (h ▸ ⟨rfl, rfl, rfl⟩)) fun h8 => ?_
      have assembled := dmaPort_dmaChannel port h8
      exact .ite (fun odd => .instr ⟨rfl, rfl, by rw [encode, ← odd, assembled]⟩)
        (fun even => .instr ⟨rfl, rfl, by rw [encode, ← Bool.eq_false_iff.mpr even, assembled]⟩)
    | pic =>
      exact .ite (fun h => .instr (h ▸ decodePicCommand_names c v))
        (fun h => .instr (eq_picMaskPort port h ▸ decodePicMask_names c v))
    | pit =>
      dsimp only
      cases counter : counterOf (p.extractLsb' 0 2) with
      | some k => exact .instr ⟨rfl, rfl, by rw [encode, pitPort_counterOf port counter]⟩
      | none => exact .instr (eq_pitControlPort port counter ▸ decodePitControl_names c v)
    | ppi =>
      exact .ite (fun h => .instr (h ▸ ⟨rfl, rfl, rfl⟩)) fun h60 =>
        .ite (fun h => .instr (h ▸ ⟨rfl, rfl, rfl⟩)) fun h61 =>
        .ite (fun h => .instr (h ▸ ⟨rfl, rfl, rfl⟩)) fun h62 =>
        .instr (eq_ppiControlPort port h60 h61 h62 ▸ ⟨rfl, rfl, rfl⟩)
    | ems => exact .instr ⟨rfl, rfl, by rw [encode, emsPort_emsSubWindow port]⟩
    | fdc =>
      exact .ite (fun h => .instr (h ▸ ⟨rfl, rfl, rfl⟩)) fun h2 =>
        .ite (fun h => .instr (h ▸ ⟨rfl, rfl, rfl⟩)) fun h5 =>
        .ite (fun h => .instr (h ▸ ⟨rfl, rfl, rfl⟩)) fun h7 =>
        .instr ⟨isFdcOther_write v port h2 h5 h7, rfl, rfl⟩
    | crtc => exact decodeCrtcOut_names c v port
    | ega =>
      have present := hasEga_of_claimant claim
      exact .ite (fun h => .instr (h ▸ ⟨rfl, present, rfl⟩)) fun h2 =>
        .ite (fun h => .instr (h ▸ ⟨rfl, present, rfl⟩)) fun h4 =>
        .ite (fun h => .instr (h ▸ ⟨rfl, present, rfl⟩)) fun h5 =>
        .ite (fun h => .instr (h ▸ ⟨rfl, present, rfl⟩)) fun hE =>
        .ite (fun h => .instr (h ▸ ⟨rfl, present, rfl⟩)) fun hF =>
        decodeCrtcOut_names c v (inCrtcRange_of_connected_ega port h2 h4 h5 hE hF)

/-! ### Byte accesses of memory (R113) -/

/-- An address in the EGA window is 0xA0000 and its offset. -/
theorem append_offset {a : Addr} (h : inEgaWindow a = true) : 0xA#4 ++ a.extractLsb' 0 16 = a := by
  have window : 0xA0000 ≤ a.toNat ∧ a.toNat < 0xB0000 := (egaWindowHas_iff _).mp h
  have offset := (a.extractLsb' 0 16).isLt
  apply BitVec.eq_of_toNat_eq
  rw [BitVec.toNat_append, ← Nat.shiftLeft_add_eq_or_of_lt offset, BitVec.extractLsb'_toNat, Nat.shiftRight_zero]
  show 0xA0000 + a.toNat % 2 ^ 16 = a.toNat
  omega

theorem decodeMemRead_names (c : Ctx) (a : Addr) : (decodeMemRead c.cfg a).Names c (.op (memrWord a)) := by
  refine .ite (fun ⟨ega, window⟩ => ?_)
    (fun outside => .instr ⟨rfl, by simpa [Instr.when, or_iff_not_imp_left] using outside, rfl⟩)
  have whole := append_offset window
  exact .ite (fun _ => .reject)
    (fun ems => .instr ⟨rfl, by simpa [Instr.when, whole, ega] using ems, by rw [encode, whole]⟩)

theorem decodeMemWrite_names (c : Ctx) (a : Addr) (v : Byte) :
    (decodeMemWrite c.cfg a v).Names c (.op (memwWord a v)) := by
  refine .ite (fun ⟨ega, window⟩ => ?_)
    (fun outside => .instr ⟨rfl, by simpa [Instr.when, or_iff_not_imp_left] using outside, rfl⟩)
  have whole := append_offset window
  exact .ite (fun _ => .reject)
    (fun ems => .instr ⟨rfl, by simpa [Instr.when, whole, ega] using ems, by rw [encode, whole]⟩)

/-! ### Operation words (R111) -/

/-- Function 8 is what the nine functions leave when 0 to 7 are tested away. -/
theorem decodeCall_names (c : Ctx) (fn : BitVec 4) (arg : Word16) :
    (decodeCall fn arg).Names c (.op (callWord fn arg)) := by
  unfold decodeCall
  refine .ite (fun h => .instr (h ▸ ⟨rfl, rfl, rfl⟩)) fun h0 => .ite (fun h => .instr (h ▸ ⟨rfl, rfl, rfl⟩)) fun h1 =>
    .ite (fun h => .instr (h ▸ ⟨rfl, rfl, rfl⟩)) fun h5 => .ite (fun h => .instr (h ▸ ⟨rfl, rfl, rfl⟩)) fun h6 =>
    .ite (fun _ => .reject) fun h9 => .ite (fun _ => .reject) fun h => ?_
  obtain rfl : arg = 0 := not_not.mp h
  refine .ite (fun h => .instr (h ▸ ⟨rfl, rfl, rfl⟩)) fun h2 => .ite (fun h => .instr (h ▸ ⟨rfl, rfl, rfl⟩)) fun h3 =>
    .ite (fun h => .instr (h ▸ ⟨rfl, rfl, rfl⟩)) fun h4 => .ite (fun h => .instr (h ▸ ⟨rfl, rfl, rfl⟩)) fun h7 => ?_
  obtain rfl : fn = 8 := by bv_omega
  exact .instr ⟨rfl, rfl, rfl⟩

theorem decodeEvent_names (c : Ctx) (n : Byte) : (decodeEvent n).Names c (.op (eventWord n)) :=
  .ite (fun h => .instr (h ▸ ⟨rfl, rfl, rfl⟩)) fun _ => .iteReject fun h => .instr (h ▸ ⟨rfl, rfl, rfl⟩)

/-- A word whose fixed bits are as its kind wants them is the word of its fields, and the fields name it. -/
theorem decodeWord_names (c : Ctx) (w : OpWord) : (decodeWord c w).Names c (.op w) :=
  .ite (fun kind => .iteReject fun ⟨zero, low⟩ => .of_word_eq (eq_inWord kind zero low) (decodeIn_names c _)) fun _ =>
  .ite (fun kind => .iteReject fun zero => .of_word_eq (eq_outWord kind zero) (decodeOut_names c _ _)) fun _ =>
  .ite (fun kind => .iteReject fun low => .of_word_eq (eq_memrWord kind low) (decodeMemRead_names c _)) fun _ =>
  .ite (fun kind => .of_word_eq (eq_memwWord kind) (decodeMemWrite_names c _ _)) fun _ =>
  .ite (fun kind => .iteReject fun zero => .of_word_eq (eq_callWord kind zero) (decodeCall_names c _ _)) fun _ =>
  .iteReject fun kind => .iteReject fun zero => .of_word_eq (eq_eventWord kind zero) (decodeEvent_names c _)

/-! ### Floppy commands (R130) -/

/-- The command, if there is one, admits its operands and is encoded as these bytes. -/
def CommandOf (b0 : Byte) (ps : List Byte) (o : Option Instr) : Prop :=
  ∀ i, o = some i → i.wf = true ∧ encode i = .fdcCmd (b0 :: ps)

namespace CommandOf

variable {b0 : Byte} {ps : List Byte}

theorem none : CommandOf b0 ps none := fun _ => nofun

theorem ite {p : Prop} [Decidable p] {a b : Option Instr} (ha : p → CommandOf b0 ps a)
    (hb : ¬p → CommandOf b0 ps b) : CommandOf b0 ps (if p then a else b) := by
  split
  · exact ha ‹_›
  · exact hb ‹_›

/-- A command is encoded from its option bits and opcode, of which its first byte consists. -/
theorem named {op : BitVec 5} {i : Instr} (h : fdcOpcode b0 = op) (wf : i.wf = true)
    (bytes : encode i = .fdcCmd (fdcByte0 (b0.extractLsb' 5 3) op :: ps)) : CommandOf b0 ps (some i) := by
  rintro _ ⟨⟩
  rw [← h, eq_fdcByte0] at bytes
  exact ⟨wf, bytes⟩

theorem invalid (h : namedFdcOpcode (fdcOpcode b0) = false) : CommandOf b0 ps (some (.fdcInvalid b0 ps)) := by
  rintro _ ⟨⟩
  exact ⟨congrArg not h, rfl⟩

end CommandOf

/-- Fifteen opcodes name a command, every other one is INVALID; three of the fifteen fix the number of parameters. -/
theorem fdcCommand_commandOf (b0 : Byte) (ps : List Byte) : CommandOf b0 ps (fdcCommand b0 ps) := by
  unfold fdcCommand
  exact
    .ite (fun h => .named h rfl rfl) fun h02 => .ite (fun h => .named h rfl rfl) fun h03 =>
    .ite (fun h => .named h rfl rfl) fun h04 => .ite (fun h => .named h rfl rfl) fun h05 =>
    .ite (fun h => .named h rfl rfl) fun h06 =>
    .ite (fun h => match ps with | [_] => .named h rfl rfl | [] => .none | _ :: _ :: _ => .none) fun h07 =>
    .ite (fun h => match ps with | [] => .named h rfl rfl | _ :: _ => .none) fun h08 =>
    .ite (fun h => .named h rfl rfl) fun h09 => .ite (fun h => .named h rfl rfl) fun h0A =>
    .ite (fun h => .named h rfl rfl) fun h0C => .ite (fun h => .named h rfl rfl) fun h0D =>
    .ite (fun h => match ps with | [_, _] => .named h rfl rfl | [] => .none | [_] => .none | _ :: _ :: _ :: _ => .none)
      fun h0F =>
    .ite (fun h => .named h rfl rfl) fun h11 => .ite (fun h => .named h rfl rfl) fun h19 =>
    .ite (fun h => .named h rfl rfl) fun h1D =>
    .invalid (by simp only [namedFdcOpcode, beq_false_of_ne, ne_eq, not_false_eq_true, Bool.or_false, h02, h03, h04, h05,
      h06, h07, h08, h09, h0A, h0C, h0D, h0F, h11, h19, h1D])

/-- The condition of a floppy command is that it has as many bytes as cbReq asks (R387). -/
theorem when_iff_of_encode_eq_fdcCmd {c : Ctx} {i : Instr} {b0 : Byte} {ps : List Byte}
    (h : encode i = .fdcCmd (b0 :: ps)) : i.when c = true ↔ ps.length + 1 = cbReq c.cfg (fdcOpcode b0) := by
  cases i with
  | fdcReadTrack | fdcSpecify | fdcSenseDriveStatus | fdcWriteData | fdcReadData | fdcRecalibrate | fdcSenseInterrupt
  | fdcWriteDeletedData | fdcReadId | fdcReadDeletedData | fdcFormatTrack | fdcSeek | fdcScanEqual
  | fdcScanLowOrEqual | fdcScanHighOrEqual =>
    cases h
    rw [fdcByte0_opcode]
    exact beq_iff_eq.trans eq_comm
  | fdcInvalid =>
    cases h
    exact beq_iff_eq.trans eq_comm
  | _ => cases h

theorem decodeFdc_names (c : Ctx) (bytes : List Byte) : (decodeFdc c.cfg bytes).Names c (.fdcCmd bytes) := by
  cases bytes with
  | nil => exact .reject
  | cons b0 ps =>
    refine .iteReject fun length => ?_
    cases command : fdcCommand b0 ps with
    | none => exact .reject
    | some i =>
      obtain ⟨wf, bytes⟩ := fdcCommand_commandOf b0 ps i command
      exact .instr ⟨wf, (when_iff_of_encode_eq_fdcCmd bytes).mpr length, bytes⟩

/-- Settles O2: each branch of the decoder names its request, for operation words by their kind and fields, for floppy
commands by their opcode. -/
theorem encodeWritesWhatDecodeReads : Obligations.EncodeWritesWhatDecodeReads := by
  intro c r i notIn notOut h
  have names : (decode c r).Names c r := by
    cases r with
    | op w => exact decodeWord_names c w
    | fdcCmd bytes => exact decodeFdc_names c bytes
    | portIn16 p => exact absurd rfl (notIn p)
    | portOut16 p v => exact absurd rfl (notOut p v)
    | memIn16 a => exact .ite (fun _ => .reject) fun _ _ => nofun
    | memOut16 a v => exact .ite (fun _ => .reject) fun _ _ => nofun
  obtain ⟨wf, when, word⟩ := names i h
  exact ⟨wf, when, word⟩

/-- Settles O4: each word is evaluated; those of the first list reach no field of the context. -/
theorem writtenOutWordsDecode : Obligations.WrittenOutWordsDecode :=
  ⟨fun _ => ⟨rfl, rfl, rfl, rfl, rfl, rfl, rfl, rfl, rfl⟩, fun _ _ => ⟨rfl, rfl, rfl, rfl, rfl⟩⟩

end Sys2Proof
end

section
/-! SUPPORT. A floppy command and its bytes (R140, R144): the encoding of the command says which bytes it is, and
performing it is writing them to the data port. -/

namespace Sys2Proof.Machine

/-- An operation that is encoded as a floppy command is performed byte by byte. -/
theorem exec_of_encode_eq_fdcCmd {i : Instr} {bytes : List Byte} (h : encode i = .fdcCmd bytes) (s : State) :
    exec i s = fdcCommandBytes bytes s := by
  cases i with
  | fdcReadTrack | fdcSpecify | fdcSenseDriveStatus | fdcWriteData | fdcReadData | fdcRecalibrate | fdcSenseInterrupt
  | fdcWriteDeletedData | fdcReadId | fdcReadDeletedData | fdcFormatTrack | fdcSeek | fdcScanEqual
  | fdcScanLowOrEqual | fdcScanHighOrEqual | fdcInvalid => cases h; rfl
  | _ => cases h

theorem Res.andThen_congr {r : Res} {f g : State → Res} (h : ∀ t, r = .next t → f t = g t) :
    Res.andThen r f = Res.andThen r g := by
  cases r with
  | next t => exact h t rfl
  | fault e => rfl
  | refused e => rfl

/-- The first byte leaves no result, so that ending the command after the last one changes nothing. -/
theorem fdcCommandBytes_cons_eq_runAll (b : Byte) (rest : List Byte) (s : State) :
    fdcCommandBytes (b :: rest) s = runAll ((b :: rest).map .fdcWrdata) s := by
  induction rest generalizing b s with
  | nil =>
    refine Res.andThen_congr fun t ht => ?_
    have noResult : t.result = .none := (fdcDataWrite_frame ht).result
    show done t = .next t
    rw [done, State.setResult, ← noResult]
  | cons b' rest ih => exact Res.andThen_congr fun t _ => ih b' t

/-- Settles O55: the command is encoded as its bytes, and each byte is performed as FDC_WRDATA. -/
theorem floppyCommandIsItsBytesInOrder : Obligations.FloppyCommandIsItsBytesInOrder := by
  intro b0 ps i s h
  rw [exec_of_encode_eq_fdcCmd (fdcCommand_commandOf b0 ps i h).2, fdcCommandBytes_cons_eq_runAll]

end Sys2Proof.Machine
end

section
/-! SUPPORT. The Bus Dispatcher (40_bus_dispatch.md): one registered chip at most claims a port (R153), a step runs the
access that its request is decoded to, and the accesses of width 16 (R154) and of nothing in the block (R155, R311). -/

namespace Sys2Proof

/-! ### Disjoint ports (R153) -/

/-- The chip in whose part of the port space a port lies: the ranges of R81 in rising order. The part between the EMS
card's ports and the floppy controller's is that of the CRTController and the EGAController; the former stands for both. -/
def portOwner (p : Word16) : Chip :=
  if p.toNat ≤ 0x08 then .dma
  else if p.toNat ≤ 0x21 then .pic
  else if p.toNat ≤ 0x43 then .pit
  else if p.toNat ≤ 0x63 then .ppi
  else if p.toNat ≤ 0x263 then .ems
  else if p.toNat ≤ 0x3DC then .crtc
  else .fdc

/-- A chip claims ports in its own part of the port space only. -/
theorem eq_portOwner_of_connected {x : Chip} {p : Word16} (h : connected x p = true) :
    x = portOwner p ∨ (x = .ega ∧ portOwner p = .crtc) := by
  rw [connected_iff] at h
  unfold portOwner
  cases x with
  | ega =>
    have range : 0x263 < p.toNat ∧ p.toNat ≤ 0x3DC := by dsimp only at h; omega
    grind
  | _ => grind

/-- No port is shared but by the CRTController and the EGAController. -/
theorem crtc_ega_of_connected {x y : Chip} {p : Word16} (hne : x ≠ y) (hx : connected x p = true)
    (hy : connected y p = true) : (x = .crtc ∧ y = .ega) ∨ (x = .ega ∧ y = .crtc) := by
  obtain rfl | ⟨rfl, crtc⟩ := eq_portOwner_of_connected hx
  · obtain rfl | ⟨rfl, crtc⟩ := eq_portOwner_of_connected hy
    · exact absurd rfl hne
    · exact .inl ⟨crtc, rfl⟩
  · obtain rfl | ⟨rfl, -⟩ := eq_portOwner_of_connected hy
    · exact .inr ⟨rfl, crtc⟩
    · exact absurd rfl hne

/-- R157. -/
theorem crtc_mem_peripherals (c : Config) : .crtc ∈ peripherals c ↔ c.hasEga = false := by
  cases h : c.hasEga <;> simp [peripherals, h]

/-- R157. -/
theorem ega_mem_peripherals (c : Config) : .ega ∈ peripherals c ↔ c.hasEga = true := by
  cases h : c.hasEga <;> simp [peripherals, h]

/-- Of the two chips that share ports one is registered. -/
theorem eq_of_registered_of_connected {c : Config} {p : Word16} {x y : Chip} (hx : x ∈ peripherals c)
    (hy : y ∈ peripherals c) (px : connected x p = true) (py : connected y p = true) : x = y := by
  by_contra hne
  obtain ⟨rfl, rfl⟩ | ⟨rfl, rfl⟩ := crtc_ega_of_connected hne px py
  · exact Bool.false_ne_true (((crtc_mem_peripherals c).mp hx).symm.trans ((ega_mem_peripherals c).mp hy))
  · exact Bool.false_ne_true (((crtc_mem_peripherals c).mp hy).symm.trans ((ega_mem_peripherals c).mp hx))

/-- Where one element at most has the property, the search finds it wherever it stands. -/
theorem find?_eq_some_iff_of_unique {α : Type} {l : List α} {p : α → Bool} {a : α}
    (unique : ∀ x ∈ l, ∀ y ∈ l, p x = true → p y = true → x = y) :
    l.find? p = some a ↔ a ∈ l ∧ p a = true := by
  refine ⟨fun h => ⟨List.mem_of_find?_eq_some h, List.find?_some h⟩, fun ⟨ha, pa⟩ => ?_⟩
  obtain ⟨b, found⟩ := Option.isSome_iff_exists.mp (List.find?_isSome.mpr ⟨a, ha, pa⟩)
  rw [found, unique b (List.mem_of_find?_eq_some found) a ha (List.find?_some found) pa]

/-- In whatever order the chips are registered, the search finds the registered chip that claims the port (log 28). -/
theorem find?_connected_eq_some_iff {c : Config} {l : List Chip} (perm : l.Perm (peripherals c)) {p : Word16}
    {chip : Chip} :
    l.find? (fun x => connected x p) = some chip ↔ chip ∈ peripherals c ∧ connected chip p = true := by
  rw [find?_eq_some_iff_of_unique, perm.mem_iff]
  exact fun x hx y hy => eq_of_registered_of_connected (perm.mem_iff.mp hx) (perm.mem_iff.mp hy)

/-- R151. -/
theorem claimant_eq_some_iff {c : Config} {p : Word16} {chip : Chip} :
    claimant c p = some chip ↔ chip ∈ peripherals c ∧ connected chip p = true :=
  find?_connected_eq_some_iff (.refl _)

/-- Settles O5: the chips claim ports in disjoint parts of the port space, but for the two of which one is registered. -/
theorem registeredPortRangesAreDisjoint : Obligations.RegisteredPortRangesAreDisjoint :=
  ⟨fun _ _ _ _ => eq_of_registered_of_connected,
    fun _ _ _ perm => Option.ext fun _ => (find?_connected_eq_some_iff perm).trans claimant_eq_some_iff.symm,
    ⟨0x3B0, rfl, rfl⟩,
    fun _ _ _ => crtc_ega_of_connected⟩

/-! ### Ports of the CRTC ranges (R157, R344) -/

theorem claimant_of_inCrtcRange (c : Config) {p : Word16} (h : inCrtcRange p = true) :
    claimant c p = some (if c.hasEga then .ega else .crtc) := by
  rw [claimant_eq_some_iff]
  split
  next ega => exact ⟨(ega_mem_peripherals c).mpr ega, by simp [connected, h]⟩
  next noEga => exact ⟨(crtc_mem_peripherals c).mpr (Bool.eq_false_iff.mpr noEga), h⟩

/-- The five ports that the EGAController claims beside the two ranges are outside them (R81). -/
theorem ne_ega_port_of_inCrtcRange {p : Word16} (h : inCrtcRange p = true) :
    p ≠ 0x3C2 ∧ p ≠ 0x3C4 ∧ p ≠ 0x3C5 ∧ p ≠ 0x3CE ∧ p ≠ 0x3CF := by
  refine ⟨?_, ?_, ?_, ?_, ?_⟩ <;> rintro rfl <;> exact Bool.false_ne_true h

theorem decodeIn_of_inCrtcRange (c : Ctx) {p : Word16} (h : inCrtcRange p = true) :
    decodeIn c p = decodeCrtcIn c.cfg p := by
  obtain ⟨h2, h4, h5, hE, hF⟩ := ne_ega_port_of_inCrtcRange h
  rw [decodeIn, claimant_of_inCrtcRange c.cfg h]
  cases c.cfg.hasEga with
  | true => simp only [if_true, if_false, or_self, h2, h4, h5, hE, hF]
  | false => rfl

theorem decodeOut_of_inCrtcRange (c : Ctx) {p : Word16} (v : Byte) (h : inCrtcRange p = true) :
    decodeOut c p v = decodeCrtcOut c.cfg p v := by
  obtain ⟨h2, h4, h5, hE, hF⟩ := ne_ega_port_of_inCrtcRange h
  rw [decodeOut, claimant_of_inCrtcRange c.cfg h]
  cases c.cfg.hasEga with
  | true => simp only [if_true, if_false, h2, h4, h5, hE, hF]
  | false => rfl

/-! ### Ports without a chip or without a function (R155, R311) -/

/-- No chip claims the port, or it is one of the CRTC ranges with the role `ignore`. -/
def Unanswered (c : Config) (p : Word16) : Prop :=
  claimant c p = none ∨ (inCrtcRange p = true ∧ roleOf c p = .ignore)

theorem decodeIn_of_unanswered {c : Ctx} {p : Word16} (h : Unanswered c.cfg p) :
    decodeIn c p = .unclaimedIn ∨ decodeIn c p = .ignoredIn := by
  obtain unclaimed | ⟨range, ignore⟩ := h
  · exact .inl (by rw [decodeIn, unclaimed])
  · exact .inr (by rw [decodeIn_of_inCrtcRange c range, decodeCrtcIn, ignore])

theorem decodeOut_of_unanswered {c : Ctx} {p : Word16} (v : Byte) (h : Unanswered c.cfg p) :
    decodeOut c p v = .unclaimedOut ∨ decodeOut c p v = .ignoredOut := by
  obtain unclaimed | ⟨range, ignore⟩ := h
  · exact .inl (by rw [decodeOut, unclaimed])
  · exact .inr (by rw [decodeOut_of_inCrtcRange c v range, decodeCrtcOut, ignore])

/-! ### Accesses of width 16 (R154) -/

theorem decodeWide_of_refuse {c : Ctx} {p : Word16} {chip : Chip} (claimed : claimant c.cfg p = some chip)
    (wide : c.cfg.wideAccess = .refuse) (narrow : Access) : decodeWide c p narrow = .reject .wideAccess := by
  rw [decodeWide, claimed, wide]

theorem decodeWide_of_lowByte {c : Ctx} (wide : c.cfg.wideAccess = .lowByte) (p : Word16) (narrow : Access) :
    decodeWide c p narrow = narrow := by
  rw [decodeWide, wide]
  cases claimant c.cfg p <;> rfl

end Sys2Proof

namespace Sys2Proof.Machine

/-! ### The step and the access it runs -/

/-- A request is performed as the access it is decoded to, unless its result is still to be widened. -/
theorem perform_of_decode {s : State} {r : Request} {a : Access} (narrow : ∀ p, r ≠ .portIn16 p)
    (h : decode s.ctx r = a) : perform r s = runAccess a s := by
  cases r with
  | portIn16 p => exact absurd rfl (narrow p)
  | op | fdcCmd | portOut16 | memIn16 | memOut16 => exact congrArg (runAccess · s) h

/-- Taking the request off the list leaves the context in which it is decoded. -/
theorem step_of_decode {s : State} {r : Request} {rest : List Request} {a : Access} (hr : s.requests = r :: rest)
    (narrow : ∀ p, r ≠ .portIn16 p) (h : decode s.ctx r = a) : step s = runAccess a (s.setRequests rest) := by
  rw [step_of_requests hr]
  exact perform_of_decode narrow h

theorem step_of_in {s : State} {p : Word16} {rest : List Request} (hr : s.requests = .op (inWord p) :: rest) :
    step s = runAccess (decodeIn s.ctx p) (s.setRequests rest) :=
  step_of_decode hr (fun _ => nofun) (decodeWord_in s.ctx p)

theorem step_of_out {s : State} {p : Word16} {v : Byte} {rest : List Request}
    (hr : s.requests = .op (outWord p v) :: rest) :
    step s = runAccess (decodeOut s.ctx p v) (s.setRequests rest) :=
  step_of_decode hr (fun _ => nofun) (decodeWord_out s.ctx p v)

/-- Settles O3: an access that is an operation is run by `exec`; with nothing requested a step rests. -/
theorem stepPerformsTheDecodedOperation : Obligations.StepPerformsTheDecodedOperation := by
  refine ⟨fun s r rest i hr narrow h => step_of_decode hr narrow h, fun s idle => ?_⟩
  obtain ⟨-, rests⟩ | ⟨r, rest, busy, -⟩ := step_cases s
  · exact rests
  · cases idle.symm.trans busy

/-! ### Accesses that nothing in the block answers -/

theorem step_out_of_unanswered {s : State} {p : Word16} {v : Byte} {rest : List Request}
    (h : Unanswered s.cfg p) (hr : s.requests = .op (outWord p v) :: rest) :
    step s = .next { s with requests := rest, result := .none } := by
  rw [step_of_out hr]
  obtain h | h := decodeOut_of_unanswered (c := s.ctx) v h <;> rw [h] <;> rfl

theorem step_in_of_unanswered {s : State} {p : Word16} {rest : List Request}
    (h : Unanswered s.cfg p) (hr : s.requests = .op (inWord p) :: rest) :
    step s = .next { s with requests := rest, result := .byte (Config.draw s.draws), draws := s.draws + 1 } := by
  rw [step_of_in hr]
  obtain h | h := decodeIn_of_unanswered (c := s.ctx) h <;> rw [h] <;> rfl

/-- Log 21. -/
theorem exec_emsMemr_of_outside {s : State} {a : Addr} (h : inEmsWindow s.cfg a = false) :
    exec (.emsMemr a) s = .next { s with result := .byte (Config.draw s.draws), draws := s.draws + 1 } :=
  if_neg (Bool.eq_false_iff.mp h)

/-- Log 21. -/
theorem exec_emsMemw_of_outside {s : State} {a : Addr} (v : Byte) (h : inEmsWindow s.cfg a = false) :
    exec (.emsMemw a v) s = .next { s with result := .none } := if_neg (Bool.eq_false_iff.mp h)

/-- Settles O7: the decoder finds no operation at such a port, and the EMS card answers inside its window only. -/
theorem accessesOutsideTheBlockChangeNothing : Obligations.AccessesOutsideTheBlockChangeNothing :=
  ⟨fun _ _ _ _ h => ⟨step_out_of_unanswered h, step_in_of_unanswered h⟩,
    fun _ _ v h => ⟨exec_emsMemr_of_outside h, exec_emsMemw_of_outside v h⟩⟩

/-! ### Accesses of width 16 -/

/-- A write of width 16 is the write of its low byte. -/
theorem step_out16_of_lowByte {s : State} {p v : Word16} {rest : List Request} (wide : s.cfg.wideAccess = .lowByte)
    (hr : s.requests = .portOut16 p v :: rest) :
    step s = step { s with requests := .op (outWord p (v.setWidth 8)) :: rest } := by
  have narrow : decode s.ctx (.portOut16 p v) = decodeOut s.ctx p (v.setWidth 8) := by
    rw [decode, decodeWide_of_lowByte wide, BitVec.setWidth_eq_extractLsb' (by decide)]
  rw [step_of_decode hr (fun _ => nofun) narrow]
  exact (step_of_out (s := { s with requests := .op (outWord p (v.setWidth 8)) :: rest }) rfl).symm

/-- A read of width 16 is the read of width 8, whatever its outcome, with the result widened. -/
theorem step_in16_of_lowByte {s : State} {p : Word16} {rest : List Request} (wide : s.cfg.wideAccess = .lowByte)
    (hr : s.requests = .portIn16 p :: rest) :
    step s = Res.andThen (step { s with requests := .op (inWord p) :: rest })
      (fun t => .next (t.setResult t.result.widen)) := by
  have narrow : decode s.ctx (.portIn16 p) = decodeIn s.ctx p := decodeWide_of_lowByte wide p _
  rw [step_of_requests hr, step_of_in (s := { s with requests := .op (inWord p) :: rest }) rfl]
  show Res.andThen (runAccess (decode s.ctx (.portIn16 p)) (s.setRequests rest)) _ = _
  rw [narrow]
  rfl

theorem Result.widen_byte (b : Byte) : (Result.byte b).widen = .word (b.setWidth 16) := by
  rw [BitVec.setWidth_eq_append (by decide)]
  rfl

/-- Settles O6: at a claimed port the decoder rejects the access by name, or takes it for the access of width 8. -/
theorem widePortAccessIsRefusedOrTheLowByte : Obligations.WidePortAccessIsRefusedOrTheLowByte := by
  intro s p v rest chip claimed
  refine ⟨fun wide => ?_, fun wide => ⟨step_out16_of_lowByte wide, fun hr t b ht hb => ?_⟩⟩
  · have rejected (narrow : Access) : decodeWide s.ctx p narrow = .reject .wideAccess :=
      decodeWide_of_refuse claimed wide narrow
    exact ⟨(step_of_reject · (rejected _)), (step_of_reject · (rejected _))⟩
  · rw [step_in16_of_lowByte wide hr, ht, Res.andThen_next, hb, Result.widen_byte]
    rfl

end Sys2Proof.Machine
end

section
/-! SUPPORT. The InterruptController (41_pic_8259.md): what each of its operations ends in, said once, and the statements
about requests, entry, End-Of-Interrupt and the mask; with them the accesses that only read or store a register. -/

namespace Sys2Proof.Machine

/-! ### Deliverable lines (R174, R175) -/

/-- R175: nothing is pending exactly when every requested line is masked. -/
theorem Pic.pending_eq_zero_iff (p : Pic) :
    p.pending = 0#8 ↔ ∀ n, n < 8 → p.irr.getLsbD n = true → p.imr.getLsbD n = true := by
  constructor
  · intro h n hn requested
    have clear : p.pending.getLsbD n = false := by simp [h]
    simpa [p.getLsbD_pending hn, requested] using clear
  · intro masked
    refine BitVec.eq_of_getLsbD_eq fun n hn => ?_
    cases requested : p.irr.getLsbD n with
    | false => simp [p.getLsbD_pending hn, requested]
    | true => simp [p.getLsbD_pending hn, requested, masked n hn requested]

theorem Pic.hasInt_iff_pending (p : Pic) : p.hasInt = true ↔ p.pending ≠ 0#8 := bne_iff_ne

theorem Pic.hasInt_iff (p : Pic) :
    p.hasInt = true ↔ ∃ n, n < 8 ∧ p.irr.getLsbD n = true ∧ p.imr.getLsbD n = false := by
  rw [hasInt_iff_pending, Ne, pending_eq_zero_iff]
  push Not
  simp only [ne_eq, Bool.not_eq_true]

/-! ### Entry and end of service (R176, R180) -/

/-- R176, for the lowest pending line. -/
theorem Pic.nextInt_of_least {p : Pic} {n : Nat} (hn : n < 8) (pending : p.pending.getLsbD n = true)
    (least : ∀ m, m < n → p.pending.getLsbD m = false) :
    p.nextInt = (p.icw[1] + BitVec.ofNat 8 n, { p with irr := clearBit p.irr n, isr := setBit p.isr n }) := by
  simp [Pic.nextInt, lowestSet_eq_some.mpr ⟨hn, pending, least⟩, bankRead]

/-- R176, with no pending line. -/
theorem Pic.nextInt_of_none {p : Pic} (h : p.pending = 0#8) : p.nextInt = (0, p) := by
  simp [Pic.nextInt, lowestSet_eq_none.mpr h]

/-- R180, for the lowest line in service. -/
theorem Pic.eoi_of_least {p : Pic} {n : Nat} (hn : n < 8) (served : p.isr.getLsbD n = true)
    (least : ∀ m, m < n → p.isr.getLsbD m = false) : p.eoi = { p with isr := clearBit p.isr n } := by
  simp [Pic.eoi, lowestSet_eq_some.mpr ⟨hn, served, least⟩]

/-- R180, with nothing in service. -/
theorem Pic.eoi_of_none {p : Pic} (h : p.isr = 0#8) : p.eoi = p := by
  simp [Pic.eoi, lowestSet_eq_none.mpr h]

theorem Pic.eoi_frame (p : Pic) : p.eoi = { p with isr := p.eoi.isr } := by
  obtain ⟨-, h⟩ | ⟨n, -, -, -, h⟩ := p.eoi_cases <;> rw [h]

/-- R179: an operation command in its two parts, which reach different fields. -/
theorem Pic.command_eq (p : Pic) (v : Byte) :
    p.command v = { p with
      isr := if v.getLsbD 5 then p.eoi.isr else p.isr
      readIsr := if selectsRead v then v.getLsbD 0 else p.readIsr } := by
  have served : (if v.getLsbD 5 then p.eoi else p) = { p with isr := if v.getLsbD 5 then p.eoi.isr else p.isr } := by
    split
    · exact p.eoi_frame
    · rfl
  rw [Pic.command, served]
  split <;> rfl

/-! ### What each operation ends in -/

theorem exec_picCallirq_of_lt (s : State) {line : Word16} (h : line.toNat < 8) :
    exec (.picCallirq line) s = done (s.raiseLine line.toNat) := if_pos h

theorem exec_picClearirq_of_lt (s : State) {line : Word16} (h : line.toNat < 8) :
    exec (.picClearirq line) s = done (s.dropLine line.toNat) := if_pos h

theorem exec_picHasint (s : State) : exec .picHasint s = answerFlag s.pic.hasInt s := rfl

theorem exec_picNextint (s : State) : exec .picNextint s = answer s.pic.nextInt.1 (s.setPic s.pic.nextInt.2) := rfl

/-- R176, by the lines that are pending and in service after. -/
theorem exec_picNextint_of_least {s : State} {n : Nat} (hn : n < 8) (pending : s.pic.pending.getLsbD n = true)
    (least : ∀ m, m < n → s.pic.pending.getLsbD m = false) :
    ∃ t, exec .picNextint s = .next t ∧ t.result = .byte (s.pic.icw[1] + BitVec.ofNat 8 n) ∧ t.pic.icw = s.pic.icw
      ∧ (∀ m, m < 8 → t.pic.pending.getLsbD m = (s.pic.pending.getLsbD m && m != n))
      ∧ ∀ m, m < 8 → t.pic.isr.getLsbD m = (s.pic.isr.getLsbD m || m == n) := by
  rw [exec_picNextint, Pic.nextInt_of_least hn pending least]
  refine ⟨_, rfl, rfl, rfl, fun m hm => ?_, fun m hm => getLsbD_setBit _ hm⟩
  simp [Pic.getLsbD_pending _ hm, getLsbD_clearBit _ hm, Bool.and_right_comm]

/-- R179, for a byte with bit 5 set; it may be a read selection too. -/
theorem exec_picEoi_of_bit5 {v : Byte} (eoi : v.getLsbD 5 = true) (s : State) :
    exec (.picEoi v) s = .next { s with
      pic := { s.pic with
        isr := s.pic.eoi.isr
        readIsr := if selectsRead v then v.getLsbD 0 else s.pic.readIsr }
      result := .none } := by
  show done (s.setPic (s.pic.command v)) = _
  rw [Pic.command_eq, if_pos eoi]
  rfl

/-- R180, by the lines that are pending and in service after: 0x20 is an End-Of-Interrupt and no read selection. -/
theorem exec_picEoi_of_least {s : State} {n : Nat} (hn : n < 8) (served : s.pic.isr.getLsbD n = true)
    (least : ∀ m, m < n → s.pic.isr.getLsbD m = false) :
    ∃ t, exec (.picEoi 0x20) s = .next t ∧ t.pic.icw = s.pic.icw ∧ t.pic.pending = s.pic.pending
      ∧ ∀ m, m < 8 → t.pic.isr.getLsbD m = (s.pic.isr.getLsbD m && m != n) := by
  rw [exec_picEoi_of_bit5 (v := 0x20) (by decide), Pic.eoi_of_least hn served least]
  exact ⟨_, rfl, rfl, rfl, fun m hm => getLsbD_clearBit _ hm⟩

theorem exec_picIcw0 (v : Byte) (s : State) :
    exec (.picIcw0 v) s = .next { s with
      pic := { s.pic with icw := bankWrite s.pic.icw 0 v, icwStep := 1, imr := 0, imrShadow := 0, readIsr := false }
      result := .none } := rfl

theorem exec_picSetmask (v : Byte) (s : State) :
    exec (.picSetmask v) s =
      .next { s with pic := { s.pic with imr := v, imrShadow := v }, result := .none } := rfl

theorem exec_picSetmask0 (s : State) :
    exec .picSetmask0 s =
      .next { s with pic := { s.pic with imrShadow := 0, maskApplyPending := true }, result := .none } := rfl

theorem exec_evMaskapply_of_pending {s : State} (h : s.pic.maskApplyPending = true) :
    exec .evMaskapply s =
      .next { s with pic := { s.pic with imr := s.pic.imrShadow, maskApplyPending := false }, result := .none } :=
  if_pos h

/-! ### Requests -/

/-- Settles O21: the two calls are `setBit` and `clearBit` on the request register. -/
theorem callAndClearReachOneRequestBit : Obligations.CallAndClearReachOneRequestBit := by
  intro line s inRange
  exact ⟨⟨_, exec_picCallirq_of_lt s inRange, rfl, fun _ hn => getLsbD_setBit _ hn⟩,
    ⟨_, exec_picClearirq_of_lt s inRange, rfl, fun _ hn => getLsbD_clearBit _ hn⟩⟩

/-- Settles O22, by the two readings of `Pic.hasInt`. -/
theorem hasIntTellsWhetherALineIsDeliverable : Obligations.HasIntTellsWhetherALineIsDeliverable :=
  fun s => ⟨_, s.pic.hasInt, exec_picHasint s, rfl, s.pic.hasInt_iff_pending, s.pic.hasInt_iff⟩

/-! ### Entry and end of service -/

/-- Settles O23: the least requested and unmasked line is the lowest bit of `Pic.pending`. -/
theorem nextIntTakesTheLowestDeliverableLine : Obligations.NextIntTakesTheLowestDeliverableLine := by
  intro s
  refine ⟨fun n hn requested unmasked least => ?_, fun masked => ?_⟩
  · have pending : s.pic.pending.getLsbD n = true := by simp [s.pic.getLsbD_pending hn, requested, unmasked]
    have below : ∀ m, m < n → s.pic.pending.getLsbD m = false := by
      intro m hm
      simpa [s.pic.getLsbD_pending (hm.trans hn)] using least m hm
    rw [exec_picNextint, Pic.nextInt_of_least hn pending below]
    refine ⟨_, rfl, ?_, fun m hm => ⟨getLsbD_clearBit _ hm, getLsbD_setBit _ hm⟩⟩
    rw [BitVec.ofNat_add, BitVec.ofNat_toNat, BitVec.setWidth_eq]
    rfl
  · rw [exec_picNextint, Pic.nextInt_of_none (s.pic.pending_eq_zero_iff.mpr masked)]
    rfl

/-- Settles O24: the isr is that of `Pic.eoi`, and the read selection is a part of its own. -/
theorem endOfInterruptClearsTheLowestLineInService : Obligations.EndOfInterruptClearsTheLowestLineInService := by
  intro v s _ eoi
  refine ⟨_, exec_picEoi_of_bit5 eoi s, rfl, fun noSelection => ?_, fun idle => ?_, fun n hn served least m hm => ?_⟩
  · exact if_neg (mt beq_iff_eq.mp noSelection)
  · simpa [Pic.eoi_of_none idle] using idle
  · simp [Pic.eoi_of_least hn served least, getLsbD_clearBit _ hm]

/-- Settles O29: entry for a, its End-Of-Interrupt, entry for b, each by its rule for the least line. The pending lines
and the lines in service are followed from state to state. -/
theorem twoRequestsAreServedInOrder : Obligations.TwoRequestsAreServedInOrder := by
  intro a b s hab hb requested noMask idle
  have ha : a < 8 := hab.trans hb
  have pendingS : ∀ m, m < 8 → s.pic.pending.getLsbD m = (m == a || m == b) := fun m hm => by
    simp [Pic.getLsbD_pending _ hm, requested m hm, noMask]
  obtain ⟨t, entryA, vectorA, icwT, pendingT, servedT⟩ :=
    exec_picNextint_of_least (s := s) ha (by simp [pendingS a ha]) fun m hm => by
      simp [pendingS m (hm.trans ha), hm.ne, (hm.trans hab).ne]
  have onlyA : ∀ m, m < 8 → t.pic.isr.getLsbD m = (m == a) := fun m hm => by simp [servedT m hm, idle]
  obtain ⟨e, endA, icwE, pendingE, servedE⟩ :=
    exec_picEoi_of_least (s := t) ha (by simp [onlyA a ha]) fun m hm => by simp [onlyA m (hm.trans ha), hm.ne]
  have leftB : ∀ m, m < 8 → e.pic.pending.getLsbD m = (m == b) := fun m hm => by
    rw [pendingE, pendingT m hm, pendingS m hm]
    obtain rfl | other := eq_or_ne m a
    · simp [hab.ne]
    · simp [beq_false_of_ne other, bne]
  obtain ⟨u, entryB, vectorB, -, pendingU, servedU⟩ :=
    exec_picNextint_of_least (s := e) hb (by simp [leftB b hb]) fun m hm => by simp [leftB m (hm.trans hb), hm.ne]
  have onlyB : ∀ m, m < 8 → u.pic.isr.getLsbD m = (m == b) := fun m hm => by
    simp [servedU m hm, servedE m hm, onlyA m hm, bne]
  have nothing : u.pic.pending = 0#8 := BitVec.eq_of_getLsbD_eq fun m hm => by simp [pendingU m hm, leftB m hm, bne]
  rw [icwE, icwT] at vectorB
  exact ⟨t, u, _, entryA, vectorA, onlyA, by simp only [runAll, endA, entryB, Res.andThen_next], vectorB, onlyB,
    exec_picHasint u, congrArg Result.flag (bne_eq_false_iff_eq.mpr nothing)⟩

/-! ### The mask -/

/-- Settles O27: `exec_picSetmask`, which needs neither premise once the operation has this name. -/
theorem nonZeroMaskIsInForceAtOnce : Obligations.NonZeroMaskIsInForceAtOnce := fun v s _ _ => exec_picSetmask v s

/-- Settles O28: the event is pending in each run, since only the event itself withdraws it. -/
theorem zeroMaskWaitsForItsEvent : Obligations.ZeroMaskWaitsForItsEvent := by
  intro v s
  refine ⟨exec_picSetmask0 s, exec_evMaskapply_of_pending, ?_, ?_, ?_⟩ <;>
    simp [runAll, exec_picSetmask0, exec_picSetmask, exec_picIcw0, exec_evMaskapply_of_pending]

/-! ### Registers read and stored as they are -/

/-- R214: four bits from the channels, and 0 above them. -/
theorem Dma.getLsbD_statusByte (d : Dma) (n : Nat) :
    d.statusByte.getLsbD n = if h : n < 4 then d.ch[n].count == 0xFFFF else false := by
  simp only [Dma.statusByte, BitVec.getLsbD_append, BitVec.getLsbD_ofBool]
  match n with
  | 0 | 1 | 2 | 3 => simp
  | n + 4 => simp

theorem Dma.getLsbD_statusByte_chan (d : Dma) (ch : BitVec 2) :
    d.statusByte.getLsbD ch.toNat = decide ((d.chan ch).count = 0xFFFF) := by
  rw [getLsbD_statusByte, dif_pos ch.isLt]
  rfl

theorem Dma.getLsbD_statusByte_of_le (d : Dma) {n : Nat} (h : 4 ≤ n) : d.statusByte.getLsbD n = false := by
  rw [getLsbD_statusByte, dif_neg h.not_gt]

/-- R319. -/
theorem exec_crtcGetreg_of_lt (s : State) {i : Word16} (h : i.toNat < 18) :
    exec (.crtcGetreg i) s = .next { s with result := .byte (s.liveCrtc.reg[i.toNat]'h) } := by
  rw [← bankRead_of_lt s.liveCrtc.reg h]
  exact if_pos h

/-- Settles O17: the DMA status by its bits, getRegister by the CRTController the machine has; each of the others is one
field read or stored as it is. -/
theorem plainRegisterAccesses : Obligations.PlainRegisterAccesses := by
  intro s v
  refine ⟨⟨_, rfl, s.dma.getLsbD_statusByte_chan, fun _ => s.dma.getLsbD_statusByte_of_le⟩, rfl, rfl, rfl, rfl, rfl, rfl,
    fun i h => ⟨fun noEga => ?_, fun ega => ?_⟩⟩
  · simp [exec_crtcGetreg_of_lt s h, State.liveCrtc, noEga]
  · simp [exec_crtcGetreg_of_lt s h, State.liveCrtc, ega]

end Sys2Proof.Machine
end

section
/-! SUPPORT. The DMAController (42_dma_8237.md): a byte written to a channel and a byte read from it, for the address
and the count at once, then the accesses at its ports, and the order in which two bytes come back. -/

namespace Sys2Proof.Machine

/-! ### The two bytes of a 16-bit register (R85) -/

@[simp] theorem lowByte_append (h l : Byte) : lowByte (h ++ l) = l :=
  BitVec.extractLsb'_append_eq_right

@[simp] theorem highByte_append (h l : Byte) : highByte (h ++ l) = h :=
  BitVec.extractLsb'_append_eq_left

theorem highByte_append_lowByte (r : Word16) : highByte r ++ lowByte r = r :=
  BitVec.extractLsb'_append_extractLsb' (w := 8) (len := 8)

theorem setWidth_byte (v : Byte) : v.setWidth 16 = 0#8 ++ v := BitVec.setWidth_eq_append (by decide)

theorem setWidth_byte_shiftLeft (v : Byte) : v.setWidth 16 <<< 8 = v ++ 0#8 := by
  rw [BitVec.shiftLeft_eq_concat_of_lt (by decide), setWidth_byte]
  exact congrArg (· ++ 0#8) (lowByte_append 0 v)

/-- Replacing the low byte, as R212 writes it with a mask. -/
theorem withLowByte_eq_or (r : Word16) (v : Byte) : withLowByte r v = (r &&& 0xFF00#16) ||| v.setWidth 16 := by
  have masked : r &&& 0xFF00#16 = highByte r ++ 0#8 := by
    calc
      r &&& 0xFF00#16 = highByte r ++ lowByte r &&& BitVec.allOnes 8 ++ 0#8 := by rw [highByte_append_lowByte]; rfl
      _ = highByte r ++ 0#8 := by rw [BitVec.and_append, BitVec.and_allOnes, BitVec.and_zero]
  rw [masked, setWidth_byte, BitVec.or_append, BitVec.or_zero, BitVec.zero_or]
  rfl

/-- Replacing the high byte, as R212 writes it with a mask and a shift. -/
theorem withHighByte_eq_or (r : Word16) (v : Byte) : withHighByte r v = (r &&& 0x00FF#16) ||| v.setWidth 16 <<< 8 := by
  have masked : r &&& 0x00FF#16 = 0#8 ++ lowByte r := by
    calc
      r &&& 0x00FF#16 = highByte r ++ lowByte r &&& 0#8 ++ BitVec.allOnes 8 := by rw [highByte_append_lowByte]; rfl
      _ = 0#8 ++ lowByte r := by rw [BitVec.and_append, BitVec.and_allOnes, BitVec.and_zero]
  rw [masked, setWidth_byte_shiftLeft, BitVec.or_append, BitVec.or_zero, BitVec.zero_or]
  rfl

/-! ### One channel -/

@[simp] theorem Channel.register_setRegister (c : Channel) (count : Bool) (r : Word16) :
    (c.setRegister count r).register count = r := by
  cases count <;> rfl

/-- The toggle is no part of the registers. -/
@[simp] theorem Channel.register_withToggle (c : Channel) (b count : Bool) :
    Channel.register { c with toggle := b } count = c.register count := rfl

/-- R212, the two halves in one: the toggle flips whichever byte it selects. -/
theorem Channel.writeByte_eq (c : Channel) (count : Bool) (v : Byte) :
    c.writeByte count v = { c.setRegister count (if c.toggle then withHighByte (c.register count) v
                                                 else withLowByte (c.register count) v) with
                            toggle := !c.toggle } := by
  unfold writeByte
  cases c.toggle <;> rfl

@[simp] theorem Channel.toggle_writeByte (c : Channel) (count : Bool) (v : Byte) :
    (c.writeByte count v).toggle = !c.toggle := by
  rw [writeByte_eq]

theorem Channel.register_writeByte (c : Channel) (count : Bool) (v : Byte) :
    (c.writeByte count v).register count =
      if c.toggle then withHighByte (c.register count) v else withLowByte (c.register count) v := by
  rw [writeByte_eq]
  exact c.register_setRegister count _

/-- Two writes fill the register: the second replaces the byte that the first left. -/
theorem Channel.register_writeByte_writeByte (c : Channel) (count : Bool) (v1 v2 : Byte) :
    ((c.writeByte count v1).writeByte count v2).register count = if c.toggle then v1 ++ v2 else v2 ++ v1 := by
  simp only [register_writeByte, toggle_writeByte]
  cases c.toggle <;> simp [withLowByte, withHighByte]

/-- R216, first read: after two writes the toggle selects the byte that was written first. -/
theorem Channel.readByte_writeByte_writeByte (c : Channel) (count : Bool) (v1 v2 : Byte) :
    ((c.writeByte count v1).writeByte count v2).readByte count = v1 := by
  simp only [readByte, register_writeByte_writeByte, toggle_writeByte, Bool.not_not]
  cases c.toggle <;> simp

/-- R216, second read: with the toggle flipped it selects the other byte. -/
theorem Channel.readByte_flip_writeByte_writeByte (c : Channel) (count : Bool) (v1 v2 : Byte) :
    Channel.readByte { (c.writeByte count v1).writeByte count v2 with toggle := !c.toggle } count = v2 := by
  simp only [readByte, register_withToggle, register_writeByte_writeByte]
  cases c.toggle <;> simp

/-! ### Accesses at the ports of a channel -/

theorem exec_dmaWrAddr (ch : BitVec 2) (v : Byte) (s : State) : exec (.dmaWrAddr ch v) s = dmaWrite ch false v s := rfl
theorem exec_dmaWrCnt (ch : BitVec 2) (v : Byte) (s : State) : exec (.dmaWrCnt ch v) s = dmaWrite ch true v s := rfl
theorem exec_dmaRdAddr (ch : BitVec 2) (s : State) : exec (.dmaRdAddr ch) s = dmaRead ch false s := rfl
theorem exec_dmaRdCnt (ch : BitVec 2) (s : State) : exec (.dmaRdCnt ch) s = dmaRead ch true s := rfl

/-- R212 at the state: the channel takes the byte, every other channel and the rest of the block stay. -/
theorem dmaWrite_eq_next (ch : BitVec 2) (count : Bool) (v : Byte) (s : State) :
    ∃ t, dmaWrite ch count v s = .next t ∧ t = { s with dma := t.dma, result := .none }
      ∧ (∀ j, j ≠ ch → t.dma.chan j = s.dma.chan j) ∧ t.dma.chan ch = (s.dma.chan ch).writeByte count v := by
  refine ⟨_, rfl, rfl, fun j hj => ?_, ?_⟩
  · exact (Dma.chan_setChan ..).trans (if_neg hj)
  · exact (Dma.chan_setChan ..).trans (if_pos rfl)

/-- R213 at the state: the byte is returned, and of the block only the channel's toggle changes. -/
theorem dmaRead_eq_next (ch : BitVec 2) (count : Bool) (s : State) :
    ∃ t, dmaRead ch count s = .next t
      ∧ t = { s with dma := t.dma, result := .byte ((s.dma.chan ch).readByte count) }
      ∧ (∀ j, j ≠ ch → t.dma.chan j = s.dma.chan j)
      ∧ t.dma.chan ch = { s.dma.chan ch with toggle := !(s.dma.chan ch).toggle } := by
  refine ⟨_, rfl, rfl, fun j hj => ?_, ?_⟩
  · exact (Dma.chan_setChan ..).trans (if_neg hj)
  · exact (Dma.chan_setChan ..).trans (if_pos rfl)

/-- Settles O18: the rule for a write at the address and at the count, its bytes put into masks and shifts. -/
theorem dmaWriteReplacesOneByte : Obligations.DmaWriteReplacesOneByte := by
  intro ch v s
  obtain ⟨a, writeAddress, frameA, othersA, chanA⟩ := dmaWrite_eq_next ch false v s
  obtain ⟨n, writeCount, frameN, othersN, chanN⟩ := dmaWrite_eq_next ch true v s
  rw [Channel.writeByte_eq, withHighByte_eq_or, withLowByte_eq_or] at chanA chanN
  exact ⟨_, rfl, ⟨a, writeAddress, frameA, othersA, chanA⟩, ⟨n, writeCount, frameN, othersN, chanN⟩⟩

/-- Settles O19: the rule for a read, at the address and at the count. -/
theorem dmaReadReturnsOneByteAndFlipsTheToggle : Obligations.DmaReadReturnsOneByteAndFlipsTheToggle :=
  fun ch s => ⟨_, rfl, dmaRead_eq_next ch false s, dmaRead_eq_next ch true s⟩

/-- R216 for either port of a channel, whose operations are named by `write` and `read`: the channel is followed
through two writes and two reads. -/
theorem dmaRead_twice_of_dmaWrite_twice {ch : BitVec 2} {count : Bool} {write : Byte → Instr} {read : Instr}
    (hwrite : ∀ v s, exec (write v) s = dmaWrite ch count v s) (hread : ∀ s, exec read s = dmaRead ch count s)
    (v1 v2 : Byte) (s : State) :
    ∃ t u w, runAll [write v1, write v2] s = .next t
      ∧ exec read t = .next u ∧ u.result = .byte v1
      ∧ exec read u = .next w ∧ w.result = .byte v2
      ∧ (t.dma.chan ch).toggle = (s.dma.chan ch).toggle ∧ w.dma.chan ch = t.dma.chan ch
      ∧ (t.dma.chan ch).register count = if (s.dma.chan ch).toggle then v1 ++ v2 else v2 ++ v1 := by
  obtain ⟨r, write1, -, -, chanR⟩ := dmaWrite_eq_next ch count v1 s
  obtain ⟨t, write2, -, -, chanT⟩ := dmaWrite_eq_next ch count v2 r
  obtain ⟨u, read1, frameU, -, chanU⟩ := dmaRead_eq_next ch count t
  obtain ⟨w, read2, frameW, -, chanW⟩ := dmaRead_eq_next ch count u
  rw [chanR] at chanT
  have toggleT : (t.dma.chan ch).toggle = (s.dma.chan ch).toggle := by simp [chanT]
  rw [toggleT] at chanU
  refine ⟨t, u, w, ?_, (hread t).trans read1, ?_, (hread u).trans read2, ?_, toggleT, ?_, ?_⟩
  · simp [runAll, hwrite, write1, write2]
  · rw [frameU, chanT, Channel.readByte_writeByte_writeByte]
  · rw [frameW, chanU, chanT, Channel.readByte_flip_writeByte_writeByte]
  · simp [chanW, chanU, ← toggleT]
  · rw [chanT, Channel.register_writeByte_writeByte]

/-- Settles O20: the address port and the count port of a channel are the two instances of one round trip. -/
theorem dmaRoundTrip : Obligations.DmaRoundTrip := fun ch v1 v2 s =>
  ⟨dmaRead_twice_of_dmaWrite_twice (exec_dmaWrAddr ch) (exec_dmaRdAddr ch) v1 v2 s,
    dmaRead_twice_of_dmaWrite_twice (exec_dmaWrCnt ch) (exec_dmaRdCnt ch) v1 v2 s⟩

end Sys2Proof.Machine
end

section
/-! SUPPORT. The IntervalTimer (43_pit_8253.md): what a byte written to a counter and a tick do, said once; then runs of
ticks, where the counter follows a path of which each point is a tick after the one before. -/

namespace Sys2Proof.Machine

/-! ### A byte written to a counter (R235, R237) -/

/-- R28 and R237 together: the output a completed load sets, by the mode field of the control word. -/
theorem Counter.loadOutput_mode (c : Counter) :
    loadOutput c.mode = decide (c.control.extractLsb' 1 3 ∈ [2, 3, 6, 7]) := by
  unfold mode
  generalize c.control.extractLsb' 1 3 = m
  revert m
  decide

theorem Counter.loadComplete_eq (c : Counter) :
    c.loadComplete = { c with
      count := c.value, enabled := true, output := decide (c.control.extractLsb' 1 3 ∈ [2, 3, 6, 7]) } := by
  rw [loadComplete, loadOutput_mode]

theorem Counter.writeByte_of_unset {c : Counter} (h : c.control.extractLsb' 4 2 = 0) (v : Byte) :
    c.writeByte v = (c, false) := by
  have format : c.format = .unset := by simp [Counter.format, h]
  simp [writeByte, format]

/-- The first of two bytes is stored and completes nothing. -/
theorem Counter.writeByte_of_first {c : Counter} (h : c.control.extractLsb' 4 2 = 3) (first : c.writeToggle = false)
    (v : Byte) :
    c.writeByte v = ({ c with value := (c.value &&& 0xFF00) ||| v.setWidth 16, writeToggle := true }, false) := by
  have format : c.format = .lsbMsb := by simp [Counter.format, h]
  simp [writeByte, format, first, withLowByte_eq_or]

/-- What a byte that completes a load leaves as the value and as the toggle, in each of the formats that load. -/
def Counter.Completes (c : Counter) (v : Byte) (w : Word16) (toggle : Bool) : Prop :=
  (c.control.extractLsb' 4 2 = 1 ∧ w = v.setWidth 16 ∧ toggle = c.writeToggle)
  ∨ (c.control.extractLsb' 4 2 = 2 ∧ w = v.setWidth 16 <<< 8 ∧ toggle = c.writeToggle)
  ∨ (c.control.extractLsb' 4 2 = 3 ∧ c.writeToggle = true
      ∧ w = (c.value &&& 0x00FF) ||| (v.setWidth 16 <<< 8) ∧ toggle = false)

theorem Counter.writeByte_of_completes {c : Counter} {v : Byte} {w : Word16} {toggle : Bool}
    (h : c.Completes v w toggle) :
    c.writeByte v = (Counter.loadComplete { c with value := w, writeToggle := toggle }, true) := by
  rcases h with ⟨bits, rfl, rfl⟩ | ⟨bits, rfl, rfl⟩ | ⟨bits, second, rfl, rfl⟩
  · have format : c.format = .lsb := by simp [Counter.format, bits]
    simp [writeByte, format, setWidth_byte]
  · have format : c.format = .msb := by simp [Counter.format, bits]
    simp [writeByte, format, setWidth_byte_shiftLeft]
  · have format : c.format = .lsbMsb := by simp [Counter.format, bits]
    simp [writeByte, format, second, withHighByte_eq_or]

/-- R235, R237 at the state: the counter takes the byte, and line 0 drops when a load of counter 0 completes. -/
theorem exec_pitWr_eq_next (k : Fin 3) (v : Byte) (s : State) :
    ∃ t, exec (.pitWr k v) s = .next t
      ∧ t = { s with pit := t.pit, pic := { s.pic with irr := t.pic.irr }, result := .none }
      ∧ (∀ j, j ≠ k → t.pit.counter j = s.pit.counter j)
      ∧ t.pit.counter k = ((s.pit.counter k).writeByte v).1
      ∧ t.pic = if ((s.pit.counter k).writeByte v).2 && k == 0 then s.pic.clearIrq 0 else s.pic := by
  have others (j : Fin 3) (hj : j ≠ k) :
      (s.pit.setCounter k ((s.pit.counter k).writeByte v).1).counter j = s.pit.counter j :=
    (Pit.counter_setCounter ..).trans (if_neg hj)
  have written : (s.pit.setCounter k ((s.pit.counter k).writeByte v).1).counter k = ((s.pit.counter k).writeByte v).1 :=
    (Pit.counter_setCounter ..).trans (if_pos rfl)
  show ∃ t, execPitWr k v s = .next t ∧ _
  simp only [execPitWr]
  cases ((s.pit.counter k).writeByte v).2 && k == 0 with
  | true => exact ⟨_, rfl, rfl, others, written, rfl⟩
  | false => exact ⟨_, rfl, rfl, others, written, rfl⟩

/-- Settles O31: the rule for a write, with what the counter makes of the byte in each format. -/
theorem counterWriteLoadsByFormat : Obligations.CounterWriteLoadsByFormat := by
  intro k v s
  obtain ⟨t, write, frame, others, counter, pic⟩ := exec_pitWr_eq_next k v s
  refine ⟨_, t, rfl, write, frame, others, fun unset => ?_, fun bits first => ?_, fun w toggle completes => ?_⟩
  · rw [Counter.writeByte_of_unset unset] at counter pic
    exact ⟨counter, pic⟩
  · rw [Counter.writeByte_of_first bits first] at counter pic
    exact ⟨counter, pic⟩
  · rw [Counter.writeByte_of_completes completes] at counter pic
    refine ⟨counter.trans (Counter.loadComplete_eq _), fun zero n hn => ?_, fun other => ?_⟩
    · rw [pic, if_pos (by simp [zero])]
      exact getLsbD_clearBit _ hn
    · rw [pic, if_neg (by simp [other])]

/-! ### One tick of a counter (R238 to R242) -/

/-- R240. -/
theorem Counter.tick_of_m0 {c : Counter} (enabled : c.enabled = true) (mode : c.mode = .m0) :
    c.tick.1 = if c.count - 1 = 0 then { c with count := 0, output := true, enabled := false }
               else { c with count := c.count - 1 } := by
  simp only [tick, enabled, mode, tick0, setOutput, Bool.not_true, Bool.false_eq_true, if_false]
  split <;> simp_all

/-- R241, for the tick that ends the low pulse. -/
theorem Counter.tick_of_m2_low {c : Counter} (enabled : c.enabled = true) (mode : c.mode = .m2)
    (low : c.output = false) : c.tick.1 = { c with output := true } := by
  simp [tick, enabled, mode, tick2, low, setOutput]

/-- R241, for a tick that counts. -/
theorem Counter.tick_of_m2_high {c : Counter} (enabled : c.enabled = true) (mode : c.mode = .m2)
    (high : c.output = true) :
    c.tick.1 = if c.count - 1 = 1 then { c with count := c.value, output := false }
               else { c with count := c.count - 1 } := by
  simp only [tick, enabled, mode, tick2, high, setOutput, Bool.not_true, Bool.false_eq_true, if_false]
  split <;> simp_all

/-- R242. -/
theorem Counter.tick_of_m3 {c : Counter} (enabled : c.enabled = true) (mode : c.mode = .m3) :
    c.tick.1 = if c.count - c.step3 = 0 then { c with count := c.value, output := !c.output }
               else { c with count := c.count - c.step3 } := by
  simp only [tick, enabled, mode, tick3, setOutput, Bool.not_true, Bool.false_eq_true, if_false]
  split <;> simp_all

/-- A counter that is stopped stays as it is. -/
theorem Counter.tick_of_disabled {c : Counter} (disabled : c.enabled = false) : c.tick = (c, false) := by
  simp [tick, disabled]

/-- R238: a tick tells of a rise exactly when the output goes from false to true. -/
theorem Counter.tick_rise (c : Counter) : c.tick.2 = (!c.output && c.tick.1.output) := by
  have still : false = (!c.output && c.output) := (Bool.not_and_self _).symm
  unfold tick
  split
  · exact still
  · cases c.mode with
    | m0 =>
      simp only [tick0]
      split
      · rfl
      · exact still
    | m2 =>
      simp only [tick2]
      split
      · rfl
      · split
        · rfl
        · exact still
    | m3 =>
      simp only [tick3]
      split
      · rfl
      · exact still
    | m1 | m4 | m5 => exact still

/-- A counter with fields written as they are is itself. -/
theorem Counter.eq_with {c : Counter} {count : Word16} {output enabled : Bool} (hcount : c.count = count)
    (houtput : c.output = output) (henabled : c.enabled = enabled) :
    c = { c with count := count, output := output, enabled := enabled } := by
  subst hcount houtput henabled
  rfl

/-! ### A tick of the timer (R238, R239) -/

/-- R238, R239 at the state: every counter ticks, and a rise of counter 0's output requests line 0. -/
theorem exec_pitTick_eq_next (s : State) :
    ∃ t, exec .pitTick s = .next t
      ∧ t = { s with pit := t.pit, pic := { s.pic with irr := t.pic.irr }, result := .none }
      ∧ (∀ k, t.pit.counter k = (s.pit.counter k).tick.1)
      ∧ ∀ n, n < 8 → t.pic.irr.getLsbD n =
          (s.pic.irr.getLsbD n || (n == 0 && !(s.pit.counter 0).output && (t.pit.counter 0).output)) := by
  have rise := (s.pit.counter 0).tick_rise
  rw [← Pit.counter_tick] at rise
  show ∃ t, execPitTick s = .next t ∧ _
  unfold execPitTick
  cases rose : (s.pit.counter 0).tick.2 with
  | true =>
    refine ⟨_, rfl, rfl, s.pit.counter_tick, fun n hn => ?_⟩
    show (setBit s.pic.irr 0).getLsbD n = (_ || (n == 0 && !_ && (s.pit.tick.counter 0).output))
    rw [getLsbD_setBit _ hn, Bool.and_assoc, ← rise, rose, Bool.and_true]
  | false =>
    refine ⟨_, rfl, rfl, s.pit.counter_tick, fun n hn => ?_⟩
    show s.pic.irr.getLsbD n = (_ || (n == 0 && !_ && (s.pit.tick.counter 0).output))
    rw [Bool.and_assoc, ← rise, rose, Bool.and_false, Bool.or_false]

/-- Settles O33: a part of the rule for a tick. -/
theorem tickRaisesLineZeroOnTheRisingEdge : Obligations.TickRaisesLineZeroOnTheRisingEdge := by
  intro s
  obtain ⟨t, tick, frame, -, irr⟩ := exec_pitTick_eq_next s
  exact ⟨t, tick, frame, irr⟩

/-! ### Runs of ticks -/

/-- A counter follows a path of which each point is a tick after the one before. If the output first rises at point n,
counter 0 has requested line 0 exactly from tick n on. -/
theorem runAll_pitTick_of_path {s : State} {k : Fin 3} {path : Nat → Counter} {n : Nat} (pos : 0 < n)
    (start : s.pit.counter k = path 0) (next : ∀ j, (path j).tick.1 = path (j + 1))
    (rise : ∀ j, j < n → (!(path j).output && (path (j + 1)).output) = decide (j + 1 = n)) (j : Nat) :
    ∃ t, runAll (List.replicate j .pitTick) s = .next t ∧ t.pit.counter k = path j
      ∧ (k = 0 → s.pic.irr.getLsbD 0 = false → t.pic.irr.getLsbD 0 = decide (n ≤ j)) := by
  induction j with
  | zero => exact ⟨s, rfl, start, fun _ clear => clear.trans (decide_eq_false pos.not_ge).symm⟩
  | succ j ih =>
    obtain ⟨u, run, counterU, requestU⟩ := ih
    obtain ⟨t, tick, -, counters, irr⟩ := exec_pitTick_eq_next u
    have counterT : t.pit.counter k = path (j + 1) := by rw [counters, counterU, next]
    refine ⟨t, ?_, counterT, fun zero clear => ?_⟩
    · simp [List.replicate_succ', runAll_append_of_next run, runAll, tick]
    · subst zero
      rw [irr 0 (by decide), requestU rfl clear, counterU, counterT, beq_self_eq_true, Bool.true_and]
      by_cases before : j < n
      · rw [rise j before, decide_eq_false before.not_ge, Bool.false_or, decide_eq_decide]
        omega
      · simp [Nat.le_of_not_lt before, Nat.le_succ_of_le (Nat.le_of_not_lt before)]

/-- A counter that comes back to its start after n ticks, its output high there, low before, and falling only once in
between, follows that cycle for ever. -/
theorem runAll_pitTick_of_cycle {s : State} {k : Fin 3} {cycle : Nat → Counter} {n : Nat} (pos : 0 < n)
    (start : s.pit.counter k = cycle 0) (next : ∀ r, r + 1 < n → (cycle r).tick.1 = cycle (r + 1))
    (last : ∀ r, r + 1 = n → (cycle r).tick.1 = cycle 0)
    (high : (cycle 0).output = true) (low : ∀ r, r + 1 = n → (cycle r).output = false)
    (falls : ∀ r, r + 1 < n → (cycle (r + 1)).output = true → (cycle r).output = true) (j : Nat) :
    ∃ t, runAll (List.replicate j .pitTick) s = .next t ∧ t.pit.counter k = cycle (j % n)
      ∧ (k = 0 → s.pic.irr.getLsbD 0 = false → t.pic.irr.getLsbD 0 = decide (n ≤ j)) := by
  have succ_mod {r : Nat} (h : r < n) : r + 1 < n ∧ (r + 1) % n = r + 1 ∨ r + 1 = n ∧ (r + 1) % n = 0 := by
    obtain more | rfl := Nat.lt_or_eq_of_le h
    · exact .inl ⟨more, Nat.mod_eq_of_lt more⟩
    · exact .inr ⟨rfl, Nat.mod_self _⟩
  refine runAll_pitTick_of_path (path := fun j => cycle (j % n)) pos (by simpa using start) (fun j => ?_)
    (fun j hj => ?_) j
  · show (cycle (j % n)).tick.1 = cycle ((j + 1) % n)
    rw [← Nat.mod_add_mod]
    obtain ⟨more, mod⟩ | ⟨done, mod⟩ := succ_mod (Nat.mod_lt j pos)
    · rw [mod, next _ more]
    · rw [mod, last _ done]
  · show (!(cycle (j % n)).output && (cycle ((j + 1) % n)).output) = _
    rw [Nat.mod_eq_of_lt hj]
    obtain ⟨more, mod⟩ | ⟨done, mod⟩ := succ_mod hj
    · have falls := falls j more
      rw [mod, decide_eq_false more.ne]
      grind
    · rw [mod, decide_eq_true done, high, low j done]
      rfl

/-! ### What is left to count (R248)

A count is the 16-bit word of how many are left, between 1 and 65536. -/

theorem reloadTicks_spec (value : Word16) :
    0 < reloadTicks value ∧ reloadTicks value ≤ 65536 ∧ BitVec.ofNat 16 (reloadTicks value) = value := by
  unfold reloadTicks
  split
  next zero => exact ⟨by decide, le_rfl, zero.symm⟩
  next nonzero => exact ⟨by bv_omega, value.isLt.le, by simp⟩

/-- A count that takes off d comes to e exactly if d + e were left: no count wraps before it is used up. -/
theorem ofNat_sub_ofNat_eq_iff {m d e : Nat} (left : d ≤ m) (pos : 1 ≤ d) (le : m ≤ 65536) (he : e < 65536) :
    BitVec.ofNat 16 m - BitVec.ofNat 16 d = BitVec.ofNat 16 e ↔ m = d + e := by
  simp only [← BitVec.toNat_inj, BitVec.toNat_sub, BitVec.toNat_ofNat]
  omega

/-- R242: the step in mode 3, by the parity of what is left. -/
theorem Counter.step3_of_count {c : Counter} {m : Nat} (count : c.count = BitVec.ofNat 16 m) :
    c.step3 = BitVec.ofNat 16 (if m % 2 = 0 then 2 else if c.output then 1 else 3) := by
  have parity : c.count.getLsbD 0 = decide (m % 2 = 1) := by
    rw [count, BitVec.getLsbD_ofNat, Nat.testBit_zero]
    rfl
  rw [step3, parity]
  grind

/-! ### Mode 0: one countdown (R240) -/

/-- A counter loaded with n in mode 0, after j ticks. -/
def Counter.countdown (c : Counter) (n j : Nat) : Counter :=
  { c with count := BitVec.ofNat 16 (n - j), output := decide (n ≤ j), enabled := decide (j < n) }

theorem Counter.tick_countdown {c : Counter} (mode : c.mode = .m0) {n : Nat} (le : n ≤ 65536) (j : Nat) :
    (c.countdown n j).tick.1 = c.countdown n (j + 1) := by
  by_cases running : j < n
  · rw [tick_of_m0 (c := c.countdown n j) (decide_eq_true running) mode]
    have asserts : (c.countdown n j).count - 1 = 0 ↔ n - j = 1 + 0 :=
      ofNat_sub_ofNat_eq_iff (d := 1) (by omega) le_rfl (by omega) (by decide)
    have counts : (c.countdown n j).count - 1 = BitVec.ofNat 16 (n - j - 1) :=
      BitVec.ofNat_sub_ofNat_of_le _ 1 (by decide) (by omega)
    split
    next zero =>
      obtain rfl : n = j + 1 := by have := asserts.mp zero; omega
      simp [countdown]
    next more =>
      have left : ¬ n ≤ j + 1 := fun h => more (asserts.mpr (by omega))
      rw [counts]
      simp [countdown, left, running.not_ge, running, Nat.lt_of_not_le left, Nat.sub_sub]
  · rw [tick_of_disabled (c := c.countdown n j) (decide_eq_false running)]
    have stopped : n ≤ j := Nat.le_of_not_lt running
    simp [countdown, running, stopped, Nat.sub_eq_zero_of_le, Nat.le_succ_of_le stopped]

/-- Settles O35: the path of the counter is its countdown. -/
theorem modeZeroAssertsItsOutputOnce : Obligations.ModeZeroAssertsItsOutputOnce := by
  rintro s k c rfl enabled mode low loaded j
  obtain ⟨pos, le, value⟩ := reloadTicks_spec (s.pit.counter k).value
  generalize reloadTicks (s.pit.counter k).value = n at *
  have start : s.pit.counter k = (s.pit.counter k).countdown n 0 :=
    Counter.eq_with (loaded.trans value.symm) (low.trans (decide_eq_false pos.not_ge).symm)
      (enabled.trans (decide_eq_true pos).symm)
  have rise (i : Nat) (hi : i < n) : (!decide (n ≤ i) && decide (n ≤ i + 1)) = decide (i + 1 = n) := by
    grind
  obtain ⟨t, run, counter, request⟩ := runAll_pitTick_of_path pos start (Counter.tick_countdown mode le) rise j
  refine ⟨t, run, ?_, request⟩
  have count : BitVec.ofNat 16 (n - j) = if j < n then (s.pit.counter k).value - BitVec.ofNat 16 j else 0 := by
    split
    next running => rw [← value, BitVec.ofNat_sub_ofNat_of_le _ _ (by omega) running.le]
    next stopped => rw [Nat.sub_eq_zero_of_le (Nat.le_of_not_lt stopped)]; rfl
  rw [counter, Counter.countdown, count]

/-! ### Mode 2: a cycle with one low tick (R241) -/

/-- A counter loaded with n in mode 2, r ticks into a period. -/
def Counter.pulse (c : Counter) (n r : Nat) : Counter :=
  { c with count := BitVec.ofNat 16 (if r + 1 = n then n else n - r), output := decide (r + 1 ≠ n) }

theorem Counter.tick_pulse_next {c : Counter} (enabled : c.enabled = true) (mode : c.mode = .m2) {n r : Nat}
    (le : n ≤ 65536) (value : BitVec.ofNat 16 n = c.value) (more : r + 1 < n) :
    (c.pulse n r).tick.1 = c.pulse n (r + 1) := by
  have left : (c.pulse n r).count = BitVec.ofNat 16 (n - r) := by rw [pulse, if_neg more.ne]
  have pulses : (c.pulse n r).count - 1 = 1 ↔ n - r = 1 + 1 := by
    rw [left]
    exact ofNat_sub_ofNat_eq_iff (d := 1) (by omega) le_rfl (by omega) (by decide)
  have counts : (c.pulse n r).count - 1 = BitVec.ofNat 16 (n - (r + 1)) := by
    rw [left]
    exact BitVec.ofNat_sub_ofNat_of_le _ 1 (by decide) (by omega)
  rw [tick_of_m2_high (c := c.pulse n r) enabled mode (decide_eq_true more.ne)]
  split
  next low =>
    have last : r + 1 + 1 = n := by have := pulses.mp low; omega
    simp [pulse, last, value]
  next high =>
    have before : r + 1 + 1 ≠ n := fun h => high (pulses.mpr (by omega))
    rw [counts]
    simp [pulse, before, more.ne]

theorem Counter.tick_pulse_last {c : Counter} (enabled : c.enabled = true) (mode : c.mode = .m2) {n r : Nat}
    (last : r + 1 = n) (ne : n ≠ 1) : (c.pulse n r).tick.1 = c.pulse n 0 := by
  rw [tick_of_m2_low (c := c.pulse n r) enabled mode (decide_eq_false (not_not.mpr last))]
  simp [pulse, last, ne.symm]

/-- Settles O36: the cycle of the counter is its pulse. -/
theorem modeTwoPulsesAtTheReloadRate : Obligations.ModeTwoPulsesAtTheReloadRate := by
  rintro s k c rfl enabled mode high loaded notOne j
  obtain ⟨pos, le, value⟩ := reloadTicks_spec (s.pit.counter k).value
  generalize reloadTicks (s.pit.counter k).value = n at *
  have ne : n ≠ 1 := fun one => notOne (by rw [← value, one]; rfl)
  have start : s.pit.counter k = (s.pit.counter k).pulse n 0 :=
    Counter.eq_with (by rw [if_neg (by omega), Nat.sub_zero, value, loaded])
      (high.trans (decide_eq_true (by omega)).symm) rfl
  obtain ⟨t, run, counter, request⟩ := runAll_pitTick_of_cycle pos start
    (fun r more => Counter.tick_pulse_next enabled mode le value more)
    (fun r last => Counter.tick_pulse_last enabled mode last ne)
    (decide_eq_true (by omega)) (fun r last => decide_eq_false (not_not.mpr last))
    (fun r more _ => decide_eq_true more.ne) j
  refine ⟨t, run, ?_, request⟩
  have position := Nat.mod_lt j pos
  have last : j % n = n - 1 ↔ j % n + 1 = n := by omega
  have count : BitVec.ofNat 16 (if j % n + 1 = n then n else n - j % n)
      = if j % n + 1 = n then (s.pit.counter k).value else (s.pit.counter k).value - BitVec.ofNat 16 (j % n) := by
    rw [apply_ite (BitVec.ofNat 16), ← value, BitVec.ofNat_sub_ofNat_of_le _ _ (by omega) position.le]
  simp only [counter, Counter.pulse, count, last, ne_eq]

/-! ### Mode 3: a cycle of two halves (R242) -/

/-- What is left to count r ticks into a period of n in mode 3: a half begins with n, and goes on with twice the ticks
that are left of it. -/
def squareWaveLeft (n r : Nat) : Nat :=
  if r = 0 ∨ r = (n + 1) / 2 then n else if r < (n + 1) / 2 then 2 * ((n + 1) / 2 - r) else 2 * (n - r)

/-- How much the tick after that takes off. -/
def squareWaveStep (n r : Nat) : Nat := if squareWaveLeft n r % 2 = 0 then 2 else if r < (n + 1) / 2 then 1 else 3

theorem squareWaveStep_bounds (n r : Nat) : 1 ≤ squareWaveStep n r ∧ squareWaveStep n r ≤ 3 := by
  unfold squareWaveStep
  grind

/-- A half of the period lasts until nothing is left. -/
theorem squareWaveLeft_eq {n r : Nat} (ne : n ≠ 1) (inside : r < n) :
    squareWaveLeft n r =
      squareWaveStep n r + if r + 1 = (n + 1) / 2 ∨ r + 1 = n then 0 else squareWaveLeft n (r + 1) := by
  unfold squareWaveStep squareWaveLeft
  grind

theorem squareWaveLeft_pos {n r : Nat} (inside : r < n) : 0 < squareWaveLeft n r := by
  unfold squareWaveLeft
  grind

theorem squareWaveLeft_le (n r : Nat) : squareWaveLeft n r ≤ n := by
  unfold squareWaveLeft
  grind

/-- A counter loaded with n in mode 3, r ticks into a period. -/
def Counter.squareWave (c : Counter) (n r : Nat) : Counter :=
  { c with count := BitVec.ofNat 16 (squareWaveLeft n r), output := decide (r < (n + 1) / 2) }

theorem Counter.step3_squareWave (c : Counter) (n r : Nat) :
    (c.squareWave n r).step3 = BitVec.ofNat 16 (squareWaveStep n r) := by
  rw [step3_of_count (c := c.squareWave n r) rfl]
  simp [squareWave, squareWaveStep]

/-- R242 along the square wave: a half goes on, or it ends with the value reloaded and the output turned over. -/
theorem Counter.tick_squareWave {c : Counter} (enabled : c.enabled = true) (mode : c.mode = .m3) {n r : Nat}
    (le : n ≤ 65536) (ne : n ≠ 1) (inside : r < n) :
    (c.squareWave n r).tick.1 =
      if r + 1 = (n + 1) / 2 ∨ r + 1 = n then { c with count := c.value, output := !decide (r < (n + 1) / 2) }
      else c.squareWave n (r + 1) := by
  have left := squareWaveLeft_eq ne inside
  obtain ⟨step, stepLe⟩ := squareWaveStep_bounds n r
  have bound := squareWaveLeft_le n r
  have enough : squareWaveStep n r ≤ squareWaveLeft n r := by omega
  have ends : (c.squareWave n r).count - BitVec.ofNat 16 (squareWaveStep n r) = 0 ↔
      r + 1 = (n + 1) / 2 ∨ r + 1 = n := by
    refine (ofNat_sub_ofNat_eq_iff enough step (bound.trans le) (e := 0) (by decide)).trans ?_
    split at left
    next half => simpa [half] using left
    next more =>
      have := squareWaveLeft_pos (n := n) (r := r + 1) (by omega)
      simp only [more, iff_false]
      omega
  rw [tick_of_m3 (c := c.squareWave n r) enabled mode, step3_squareWave]
  simp only [ends]
  split
  next half => rfl
  next more =>
    have counts : (c.squareWave n r).count - BitVec.ofNat 16 (squareWaveStep n r) =
        BitVec.ofNat 16 (squareWaveLeft n (r + 1)) := by
      rw [if_neg more] at left
      refine (BitVec.ofNat_sub_ofNat_of_le _ _ (stepLe.trans_lt (by decide)) enough).trans ?_
      rw [left, Nat.add_sub_cancel_left]
    have same : decide (r < (n + 1) / 2) = decide (r + 1 < (n + 1) / 2) := by
      rw [decide_eq_decide]
      omega
    rw [counts]
    simp only [squareWave, same]

theorem Counter.tick_squareWave_next {c : Counter} (enabled : c.enabled = true) (mode : c.mode = .m3) {n r : Nat}
    (le : n ≤ 65536) (value : BitVec.ofNat 16 n = c.value) (ne : n ≠ 1) (more : r + 1 < n) :
    (c.squareWave n r).tick.1 = c.squareWave n (r + 1) := by
  rw [tick_squareWave enabled mode le ne (Nat.lt_of_succ_lt more)]
  split
  next half =>
    have half : r + 1 = (n + 1) / 2 := half.resolve_right more.ne
    have high : r < (n + 1) / 2 := by omega
    simp [squareWave, squareWaveLeft, value, half, high]
  next => rfl

theorem Counter.tick_squareWave_last {c : Counter} (enabled : c.enabled = true) (mode : c.mode = .m3) {n r : Nat}
    (le : n ≤ 65536) (value : BitVec.ofNat 16 n = c.value) (ne : n ≠ 1) (last : r + 1 = n) :
    (c.squareWave n r).tick.1 = c.squareWave n 0 := by
  rw [tick_squareWave enabled mode le ne (by omega), if_pos (.inr last)]
  have low : ¬ r < (n + 1) / 2 := by omega
  have high : 0 < (n + 1) / 2 := by omega
  simp only [squareWave, squareWaveLeft, value, low, high, true_or, if_true, decide_true, decide_false, Bool.not_false]

/-- Settles O37: the cycle of the counter is its square wave. -/
theorem modeThreeIsASquareWave : Obligations.ModeThreeIsASquareWave := by
  rintro s k c rfl enabled mode high loaded notOne j
  obtain ⟨pos, le, value⟩ := reloadTicks_spec (s.pit.counter k).value
  generalize reloadTicks (s.pit.counter k).value = n at *
  have ne : n ≠ 1 := fun one => notOne (by rw [← value, one]; rfl)
  have start : s.pit.counter k = (s.pit.counter k).squareWave n 0 :=
    Counter.eq_with (by rw [squareWaveLeft, if_pos (.inl rfl), value, loaded])
      (high.trans (decide_eq_true (by omega)).symm) rfl
  obtain ⟨t, run, counter, request⟩ := runAll_pitTick_of_cycle pos start
    (fun r more => Counter.tick_squareWave_next enabled mode le value ne more)
    (fun r last => Counter.tick_squareWave_last enabled mode le value ne last)
    (decide_eq_true (by omega)) (fun r last => decide_eq_false (by omega))
    (fun r _ high => decide_eq_true (Nat.lt_of_succ_lt (of_decide_eq_true high))) j
  exact ⟨t, run, by rw [counter]; rfl, request⟩

end Sys2Proof.Machine
end

section
/-! SUPPORT. The ParallelInterface (44_ppi_8255.md): how a key reaches line 1, what the accesses to its ports end in, and
the byte of port 2 bit by bit; with them the registers of other chips that a port stores or returns whole. -/

namespace Sys2Proof.Machine

/-! ### A key (R282, R291) -/

/-- R282 at the state: the code is latched, line 1 is requested and every other line is as it was. -/
theorem done_typeKey_eq_next (code : Word16) (s : State) :
    ∃ t, done (s.typeKey code) = .next t
      ∧ t = { s with ppi := { s.ppi with scan := code }, pic := { s.pic with irr := t.pic.irr }, result := .none }
      ∧ ∀ n, n < 8 → t.pic.irr.getLsbD n = (s.pic.irr.getLsbD n || n == 1) :=
  ⟨_, rfl, rfl, fun _ hn => getLsbD_setBit s.pic.irr hn⟩

theorem exec_ppiKeytyped (code : Word16) (s : State) : exec (.ppiKeytyped code) s = done (s.typeKey code) := rfl

/-- R291: the event is the key 0x0FFF, typed with one injection less pending. -/
theorem exec_evKbdreset_of_pending {s : State} (pending : 0 < s.ppi.resetPending) :
    exec .evKbdreset s = done ((s.setPpi { s.ppi with resetPending := s.ppi.resetPending - 1 }).typeKey 0x0FFF) :=
  if_pos pending

/-- Settles O38: PPI_KEYTYPED is the typed key and nothing else. -/
theorem keyTypedLatchesTheCodeAndRequestsLineOne : Obligations.KeyTypedLatchesTheCodeAndRequestsLineOne :=
  fun code s => exec_ppiKeytyped code s ▸ done_typeKey_eq_next code s

/-! ### Port 0 (R283) -/

theorem exec_ppiRda_of_switches {s : State} (switches : s.ppi.portB.getLsbD s.cfg.ppiSwModeBit.val = true) :
    exec .ppiRda s = answer s.cfg.ppiSw s := if_pos switches

/-- R283 outside switch readback: what the latch holds decides. -/
theorem exec_ppiRda_of_keyboard {s : State} (keyboard : s.ppi.portB.getLsbD s.cfg.ppiSwModeBit.val = false) :
    exec .ppiRda s = if s.ppi.scan = 0x0FFF then answer 0xAA (s.setPpi { s.ppi with scan := 0 })
      else answer (lowByte s.ppi.scan) s :=
  if_neg (Bool.not_eq_true _ ▸ keyboard)

theorem lowByte_eq_setWidth (w : Word16) : lowByte w = w.setWidth 8 :=
  (BitVec.setWidth_eq_extractLsb' (show 8 ≤ 16 by decide)).symm

/-- Settles O39: the mode bit first, then the latch. -/
theorem portZeroReadsSwitchesSentinelOrScanCode : Obligations.PortZeroReadsSwitchesSentinelOrScanCode := by
  refine fun s => ⟨exec_ppiRda_of_switches, fun keyboard sentinel => ?_, fun keyboard code => ?_⟩
  · exact (exec_ppiRda_of_keyboard keyboard).trans (if_pos sentinel)
  · rw [exec_ppiRda_of_keyboard keyboard, if_neg code, lowByte_eq_setWidth, answer_eq]

/-! ### Port 1 (R285) -/

/-- R285 at the state: bit 6 decides about the count alone, bit 7 about line 1 alone. -/
theorem exec_ppiWrb (v : Byte) (s : State) :
    exec (.ppiWrb v) s = .next { s with
      ppi := { s.ppi with
        portB := v, resetPending := s.ppi.resetPending + (if v.getLsbD 6 = false then 1 else 0) }
      pic := { s.pic with irr := if v.getLsbD 7 then clearBit s.pic.irr 1 else s.pic.irr }
      result := .none } := by
  show execPpiWrb v s = _
  unfold execPpiWrb
  cases v.getLsbD 6 <;> cases v.getLsbD 7 <;> rfl

/-- Settles O40: line 1 by bit 7 of the byte; the event as the typed key 0x0FFF. -/
theorem portOneWriteQueuesTheKeyboardReset : Obligations.PortOneWriteQueuesTheKeyboardReset := by
  refine fun v s => ⟨⟨_, exec_ppiWrb v s, rfl, fun n hn => ?_⟩, fun pending => ?_⟩
  · cases clears : v.getLsbD 7 with
    | true => simp [getLsbD_clearBit _ hn, bne]
    | false => simp
  · rw [exec_evKbdreset_of_pending pending]
    exact done_typeKey_eq_next 0x0FFF _

/-! ### Port 2 (R286) -/

theorem Ppi.advanceClock_of_last {p : Ppi} {div : Nat} (last : p.clk2 + 1 = div) :
    p.advanceClock div = { p with clk2 := 0, clkBit := !p.clkBit } := if_pos last

theorem Ppi.advanceClock_of_not_last {p : Ppi} {div : Nat} (more : p.clk2 + 1 ≠ div) :
    p.advanceClock div = { p with clk2 := p.clk2 + 1 } := if_neg more

/-- The clock reaches no field but its own two. -/
theorem Ppi.advanceClock_frame (p : Ppi) (div : Nat) :
    p.advanceClock div = { p with clk2 := (p.advanceClock div).clk2, clkBit := (p.advanceClock div).clkBit } := by
  by_cases last : p.clk2 + 1 = div
  · rw [advanceClock_of_last last]
  · rw [advanceClock_of_not_last last]

/-- R286 at the state: the clock moves while it is enabled, and the byte is that of the clock bit after. -/
theorem exec_ppiRdc_eq_next (s : State) :
    ∃ t, exec .ppiRdc s = .next t
      ∧ t = { s with
          ppi := { s.ppi with clk2 := t.ppi.clk2, clkBit := t.ppi.clkBit }
          result := .byte (portCByte s.cfg s.ppi.portB t.ppi.clkBit) }
      ∧ (s.ppi.portB.getLsbD s.cfg.ppiClkEnBit.val = false → t.ppi = s.ppi)
      ∧ (s.ppi.portB.getLsbD s.cfg.ppiClkEnBit.val = true → t.ppi = s.ppi.advanceClock s.cfg.ppiClkDiv) := by
  show ∃ t, execPpiRdc s = .next t ∧ _
  unfold execPpiRdc
  cases s.ppi.portB.getLsbD s.cfg.ppiClkEnBit.val with
  | false => exact ⟨_, rfl, rfl, fun _ => rfl, nofun⟩
  | true =>
    rw [if_pos rfl, s.ppi.advanceClock_frame s.cfg.ppiClkDiv]
    exact ⟨_, rfl, rfl, nofun, fun _ => rfl⟩

theorem portCByte_of_free {cfg : Config} (free : cfg.ppiPortC = .free) (portB : Byte) (clkBit : Bool) :
    portCByte cfg portB clkBit = Config.freePortC portB cfg.ppiSw clkBit := by
  rw [portCByte, free]

/-- The low half of a byte. -/
theorem getLsbD_and_0x0F (b : Byte) (n : Nat) : (b &&& 0x0F#8).getLsbD n = (b.getLsbD n && decide (n < 4)) := by
  have mask : 0x0F#8 = (BitVec.allOnes 4).setWidth 8 := rfl
  rw [mask, BitVec.getLsbD_and, BitVec.getLsbD_setWidth, BitVec.getLsbD_allOnes]
  congr 1
  simp only [Bool.and_eq_right_iff_imp, decide_eq_true_eq]
  omega

/-- R286, the suggested formula: the half of the switches that bit 3 of port B selects, and the clock bit as bit 5. -/
theorem getLsbD_portCByte_of_pcxt {cfg : Config} (pcxt : cfg.ppiPortC = .pcxt) (portB : Byte) (clkBit : Bool) {n : Nat}
    (hn : n < 8) :
    (portCByte cfg portB clkBit).getLsbD n =
      (cfg.ppiSw.getLsbD (if portB.getLsbD 3 = true then n + 4 else n) && decide (n < 4) || clkBit && n == 5) := by
  have half : (if portB.getLsbD 3 = true then (cfg.ppiSw >>> 4) &&& 0x0F#8 else cfg.ppiSw &&& 0x0F#8).getLsbD n =
      (cfg.ppiSw.getLsbD (if portB.getLsbD 3 = true then n + 4 else n) && decide (n < 4)) := by
    by_cases high : portB.getLsbD 3 = true
    · rw [if_pos high, if_pos high, getLsbD_and_0x0F, BitVec.getLsbD_ushiftRight, Nat.add_comm]
    · rw [if_neg high, if_neg high, getLsbD_and_0x0F]
  rw [← half, portCByte, pcxt]
  cases clkBit with
  | true => exact getLsbD_setBit (n := 5) _ hn
  | false => exact (Bool.or_false _).symm

/-- Settles O41: the clock by the rule for the read, the byte by the configuration's rule. -/
theorem portTwoReadCarriesTheCassetteClock : Obligations.PortTwoReadCarriesTheCassetteClock := by
  intro s
  obtain ⟨t, read, frame, disabled, enabled⟩ := exec_ppiRdc_eq_next s
  refine ⟨t, _, read, frame, disabled, fun on => ⟨fun last => ?_, fun more => ?_⟩, fun free => portCByte_of_free free ..,
    fun pcxt => ?_⟩
  · simp [enabled on, Ppi.advanceClock_of_last last]
  · simp [enabled on, Ppi.advanceClock_of_not_last more]
  · have bits {n : Nat} (hn : n < 8) := getLsbD_portCByte_of_pcxt pcxt s.ppi.portB t.ppi.clkBit hn
    refine ⟨fun n hn => ?_, ?_, ?_, ?_, ?_⟩
    · have ne : n ≠ 5 := by omega
      simp [bits (hn.trans (by decide)), hn, ne]
    all_goals rw [bits (by decide)]; simp

/-! ### Registers stored and read whole (R284, R287, R397, R431, R432) -/

theorem Ems.selector_set (e : Ems) (sub k : BitVec 2) (v : Byte) :
    Ems.selector { e with sel := e.sel.set sub.toNat v sub.isLt } k = if k = sub then v else e.selector k := by
  simp only [Ems.selector, Vector.getElem_set, BitVec.toNat_inj, eq_comm]

/-- Settles O16: each access is one field read or stored as it is; the EMS selector is one of its bank. -/
theorem storedPortsReadAsTheRulesSay : Obligations.StoredPortsReadAsTheRulesSay := fun s sub v =>
  ⟨rfl, rfl, rfl, rfl, ⟨_, rfl, rfl, fun k => s.ems.selector_set sub k v⟩, rfl⟩

end Sys2Proof.Machine
end

section
/-! SUPPORT. The CRTController (45_crtc_6845.md) and the index ports of the EGAController: what each access ends in, and
how runs of operations move the retrace phase. -/

namespace Sys2Proof.Machine

/-! ### Ports without a role (R318) -/

theorem exec_crtcBadport (p : Word16) (acc : PortAccess) (s : State) :
    exec (.crtcBadport p acc) s = violation .crtcPort := rfl

/-- Settles O13: the operation is the fault, on every path. -/
theorem unrecognisedCrtcPortFaults : Obligations.UnrecognisedCrtcPortFaults := exec_crtcBadport

/-! ### Index ports (R312, R333, R336, R338) -/

theorem exec_crtcWridx_of_lt (p : Word16) {v : Byte} (s : State) (h : v.toNat < 0x12) :
    exec (.crtcWridx p v) s = .next { s with crtc := { s.crtc with index := v }, result := .none } :=
  if_neg h.not_ge

theorem exec_egaWridx_of_le (p : Word16) {v : Byte} (s : State) (h : v.toNat ≤ 0x18) :
    exec (.egaWridx p v) s =
      .next { s with ega := { s.ega with crtc := { s.ega.crtc with index := v } }, result := .none } :=
  if_neg h.not_gt

theorem exec_egaWrseqidx_of_le {v : Byte} (s : State) (h : v.toNat ≤ 5) :
    exec (.egaWrseqidx v) s = .next { s with ega := { s.ega with seqIndex := v }, result := .none } :=
  if_neg h.not_gt

theorem exec_egaWrgfxidx_of_le {v : Byte} (s : State) (h : v.toNat ≤ 8) :
    exec (.egaWrgfxidx v) s = .next { s with ega := { s.ega with gfxIndex := v }, result := .none } :=
  if_neg h.not_gt

/-- Settles O42: each index port by the side of its guard that stores. -/
theorem indexInRangeIsStored : Obligations.IndexInRangeIsStored := fun p _ s =>
  ⟨exec_crtcWridx_of_lt p s, exec_egaWridx_of_le p s, exec_egaWrseqidx_of_le s, exec_egaWrgfxidx_of_le s⟩

/-! ### The data port (R313, R314) -/

theorem exec_crtcWrdata (p : Word16) (v : Byte) (s : State) :
    exec (.crtcWrdata p v) s = .next { s with
      crtc := { s.crtc with reg := bankWrite s.crtc.reg s.crtc.index.toNat v }
      result := .none } := rfl

theorem exec_crtcRddata (p : Word16) (s : State) :
    exec (.crtcRddata p) s = answer (bankRead s.crtc.reg s.crtc.index.toNat) s := rfl

/-- Settles O43, by the laws of a bank with one element written. -/
theorem crtcDataPortReachesTheSelectedRegister : Obligations.CrtcDataPortReachesTheSelectedRegister := by
  intro p v s inBank
  refine ⟨⟨_, exec_crtcWrdata p v s, rfl, fun j => ?_⟩, ?_⟩
  · exact (bankWrite_get s.crtc.reg s.crtc.index.toNat v j.isLt).trans (if_congr eq_comm rfl rfl)
  · rw [exec_crtcRddata, bankRead_of_lt _ inBank, answer_eq]

/-! ### The retrace cycle (R316) -/

theorem exec_crtcRdstat (p : Word16) (s : State) :
    exec (.crtcRdstat p) s = .next { s with
      crtc := { s.crtc with retracePhase := s.crtc.retracePhase + 1 }
      result := .byte (retracePattern s.crtc.retracePhase) } := rfl

/-- R127: the phase is the place of its pattern in the cycle. -/
theorem retracePattern_eq (phase : BitVec 2) :
    retracePattern phase = #v[9#8, 0#8, 8#8, 1#8][phase.toNat]'phase.isLt := by
  revert phase; decide

theorem retracePattern_add (phase : BitVec 2) (n : Nat) :
    retracePattern (phase + BitVec.ofNat 2 n) =
      #v[9#8, 0#8, 8#8, 1#8][(phase.toNat + n) % 4]'(Nat.mod_lt _ (Nat.succ_pos 3)) := by
  simp only [retracePattern_eq, BitVec.toNat_add, BitVec.toNat_ofNat, Nat.add_mod_mod, Nat.reducePow]

theorem phase_add_one_add (phase : BitVec 2) (n : Nat) :
    phase + 1 + BitVec.ofNat 2 n = phase + BitVec.ofNat 2 (n + 1) := by
  rw [Nat.add_comm, BitVec.ofNat_add, ← BitVec.add_assoc]
  rfl

/-- R316, D36: no operation but a status read moves the phase; one of another chip does not reach it at all. -/
theorem exec_keeps_retracePhase {i : Instr} {s t : State} (noRead : ∀ q, i ≠ .crtcRdstat q)
    (h : exec i s = .next t) : t.crtc.retracePhase = s.crtc.retracePhase := by
  by_cases chip : chipOf i = .crtc
  · cases i with
    | crtcRdstat q => exact absurd rfl (noRead q)
    | crtcWridx p v =>
      obtain inRange | outside := Nat.lt_or_ge v.toNat 0x12
      · rw [exec_crtcWridx_of_lt p s inRange] at h
        cases h; rfl
      · cases (if_pos outside : exec (.crtcWridx p v) s = violation .crtcIndex).symm.trans h
    | crtcGetreg n =>
      obtain inBank | outside := Nat.lt_or_ge n.toNat 18
      · rw [exec_crtcGetreg_of_lt s inBank] at h
        cases h; rfl
      · cases (exec_crtcGetreg_of_le s outside).symm.trans h
    | crtcWrdata | crtcRddata | crtcRdidx | crtcWrstat => cases h; rfl
    | crtcBadport => cases h
    | _ => cases chip
  · rw [(exec_staysIn s i t h).crtc chip]

theorem runAll_keeps_retracePhase {l : List Instr} {s t : State} (noRead : ∀ i ∈ l, ∀ q, i ≠ .crtcRdstat q)
    (h : runAll l s = .next t) : t.crtc.retracePhase = s.crtc.retracePhase := by
  induction l generalizing s with
  | nil => cases h; rfl
  | cons i rest ih =>
    obtain ⟨u, first, others⟩ := Res.andThen_eq_next h
    obtain ⟨noReadFirst, noReadRest⟩ := List.forall_mem_cons.mp noRead
    rw [ih noReadRest others, exec_keeps_retracePhase noReadFirst first]

/-- A run of status reads through any ports only advances the phase, once a read. -/
theorem runAll_map_crtcRdstat (ports : List Word16) (s : State) :
    ∃ t, runAll (ports.map .crtcRdstat) s = .next t
      ∧ t.crtc = { s.crtc with retracePhase := s.crtc.retracePhase + BitVec.ofNat 2 ports.length } := by
  induction ports generalizing s with
  | nil => exact ⟨s, rfl, by simp⟩
  | cons q rest ih =>
    obtain ⟨t, run, crtc⟩ := ih { s with
      crtc := { s.crtc with retracePhase := s.crtc.retracePhase + 1 }
      result := .byte (retracePattern s.crtc.retracePhase) }
    refine ⟨t, run, ?_⟩
    rw [crtc, List.length_cons, ← phase_add_one_add]

/-- Rounds that end in one status read each advance the phase once a round. -/
theorem retracePhase_of_rounds {rounds : List (List Instr × Word16)} {last : List Instr} {s t : State}
    (noRead : ∀ round ∈ rounds, ∀ i ∈ round.1, ∀ q, i ≠ .crtcRdstat q)
    (noReadLast : ∀ i ∈ last, ∀ q, i ≠ .crtcRdstat q)
    (h : runAll (rounds.flatMap (fun round => round.1 ++ [.crtcRdstat round.2]) ++ last) s = .next t) :
    t.crtc.retracePhase = s.crtc.retracePhase + BitVec.ofNat 2 rounds.length := by
  induction rounds generalizing s with
  | nil => simpa using runAll_keeps_retracePhase noReadLast h
  | cons round rest ih =>
    obtain ⟨noReadFirst, noReadRest⟩ := List.forall_mem_cons.mp noRead
    rw [List.flatMap_cons, List.append_assoc] at h
    obtain ⟨u, first, others⟩ := runAll_append_eq_next h
    obtain ⟨w, between, read⟩ := runAll_append_eq_next first
    have phaseW := runAll_keeps_retracePhase noReadFirst between
    have phaseU : u.crtc.retracePhase = w.crtc.retracePhase + 1 := by cases read; rfl
    rw [ih noReadRest others, phaseU, phaseW, List.length_cons, phase_add_one_add]

/-- Settles O44: the phase counts the status reads modulo 4, and the pattern is read off the phase. -/
theorem crtcStatusReadsCycle : Obligations.CrtcStatusReadsCycle := by
  refine fun p s => ⟨?_, fun _ _ => exec_keeps_retracePhase, fun ports => ?_,
    fun rounds last t noRead noReadLast h => ?_⟩
  · rw [exec_crtcRdstat, retracePattern_eq]
  · obtain ⟨t, run, crtc⟩ := runAll_map_crtcRdstat ports s
    refine ⟨t, _, run, exec_crtcRdstat p t, by rw [crtc], ?_⟩
    rw [crtc, retracePattern_add]
  · refine ⟨_, exec_crtcRdstat p t, ?_⟩
    rw [retracePhase_of_rounds noRead noReadLast h, retracePattern_add]

end Sys2Proof.Machine
end

section
/-! SUPPORT. The invariant of the reachable states (R23, R27, R36, R320, R351, R381, R400): one rule per chip that is
replaced and per way an operation ends, what each chip's operations keep of their own part, then every operation, every
access and the step. -/

namespace Sys2Proof.Machine

/-! ### One rule per update of the state -/

/-- What the invariant says of the EGAController (R341, R345, R351 (a)). -/
structure Ega.Sound (e : Ega) (cfg : Config) : Prop where
  egaIndex : e.crtc.index.toNat ≤ 0x18
  seqIndex : e.seqIndex.toNat ≤ 5
  gfxIndex : e.gfxIndex.toNat ≤ 8
  selfTest : e.test ≤ cfg.egaScript.length
  planes : ∀ p, (e.plane p).wf = true ∧ (e.plane p).within cfg.egaPlaneSize = true

/-- What the invariant says of the drives (R36, R400 (c)). -/
def Fdc.DrivesSound (f : Fdc) (cfg : Config) : Prop :=
  ∀ d : BitVec 2, (f.driveAt d).sound (cfg.fdcGeom[d.toNat]'d.isLt)

namespace State.Inv

variable {s u : State}

theorem egaSound (h : s.Inv) : s.ega.Sound s.cfg :=
  ⟨h.egaIndex, h.seqIndex, h.gfxIndex, h.selfTest, h.planes⟩

theorem drivesSound (h : s.Inv) : s.fdc.DrivesSound s.cfg := h.drives

theorem setPic (h : s.Inv) {x : Pic} (masks : x.maskApplyPending = false → x.imr = x.imrShadow) : (s.setPic x).Inv :=
  { h with masks := masks }

theorem setDma (h : s.Inv) {x : Dma} : (s.setDma x).Inv := { h with }

theorem setPit (h : s.Inv) {x : Pit} (control : ∀ k, (x.counter k).control &&& 0xC0 = 0) : (s.setPit x).Inv :=
  { h with control := control }

theorem setPpi (h : s.Inv) {x : Ppi} (cassette : x.clk2 < s.cfg.ppiClkDiv) : (s.setPpi x).Inv :=
  { h with cassette := cassette }

theorem setCrtc (h : s.Inv) {x : Crtc} (index : x.index.toNat < 0x12) : (s.setCrtc x).Inv :=
  { h with crtcIndex := index }

theorem setEga (h : s.Inv) {x : Ega} (sound : x.Sound s.cfg) : (s.setEga x).Inv :=
  { h with
    egaIndex := sound.egaIndex, seqIndex := sound.seqIndex, gfxIndex := sound.gfxIndex, selfTest := sound.selfTest
    planes := sound.planes }

theorem setFdc (h : s.Inv) {x : Fdc} (phase : x.accepting s.cfg ∨ x.answering s.cfg) (drives : x.DrivesSound s.cfg) :
    (s.setFdc x).Inv :=
  { h with phase := phase, drives := drives }

theorem setEms (h : s.Inv) {x : Ems} (store : x.store.wf = true ∧ x.store.within emsStoreSize = true) :
    (s.setEms x).Inv :=
  { h with store := store }

theorem setRequests (h : s.Inv) {x : List Request} : (s.setRequests x).Inv := { h with }

theorem setResult (h : s.Inv) {x : Result} : (s.setResult x).Inv := { h with }

theorem tookDraws (h : s.Inv) {n : Nat} : (s.tookDraws n).Inv := { h with }

/-- A request reaches no mask. -/
theorem raiseLine (h : s.Inv) {n : Nat} : (s.raiseLine n).Inv := h.setPic h.masks

theorem dropLine (h : s.Inv) {n : Nat} : (s.dropLine n).Inv := h.setPic h.masks

theorem ite {p : Prop} [Decidable p] (h : s.Inv) (h' : u.Inv) : (if p then s else u).Inv := by
  split <;> assumption

end State.Inv

/-! ### One rule per way an operation ends -/

/-- The outcome's next state, if it has one, meets the invariant. -/
def Res.MeetsInv (r : Res) : Prop := ∀ t, r = .next t → t.Inv

namespace Res.MeetsInv

variable {s : State}

theorem next (h : s.Inv) : MeetsInv (.next s) := fun _ e => by cases e; exact h

theorem done (h : s.Inv) : MeetsInv (done s) := next h.setResult

theorem answer {v : Byte} (h : s.Inv) : MeetsInv (answer v s) := next h.setResult

theorem answerFlag {b : Bool} (h : s.Inv) : MeetsInv (answerFlag b s) := next h.setResult

theorem answerDraw (h : s.Inv) : MeetsInv (answerDraw s) := answer h.tookDraws

theorem violation {v : Violation} : MeetsInv (violation v) := fun _ => nofun

theorem refused {e : Refusal} : MeetsInv (.refused e) := fun _ => nofun

theorem ite {p : Prop} [Decidable p] {a b : Res} (ha : p → MeetsInv a) (hb : ¬p → MeetsInv b) :
    MeetsInv (if p then a else b) := by
  split
  · exact ha ‹_›
  · exact hb ‹_›

theorem andThen {r : Res} {f : State → Res} (hr : r.MeetsInv) (hf : ∀ u, u.Inv → (f u).MeetsInv) :
    (r.andThen f).MeetsInv := by
  intro t h
  obtain ⟨u, first, second⟩ := Res.andThen_eq_next h
  exact hf u (hr u first) t second

end Res.MeetsInv

/-! ### InterruptController: the two masks (R23) -/

/-- Entry into service reaches no mask (R176). -/
theorem State.Inv.nextInt {s : State} (h : s.Inv) : (s.setPic s.pic.nextInt.2).Inv := by
  obtain ⟨-, e⟩ | ⟨n, -, -, -, e⟩ := s.pic.nextInt_cases <;> rw [e] <;> exact h.setPic h.masks

/-- An operation command reaches no mask (R179). -/
theorem State.Inv.picCommand {s : State} (h : s.Inv) (v : Byte) : (s.setPic (s.pic.command v)).Inv := by
  rw [Pic.command_eq]
  exact h.setPic h.masks

/-! ### IntervalTimer: the stored counter select (R27) -/

/-- The two select bits are cut off (R232). -/
theorem Counter.select_program (c : Counter) (v : Byte) : (c.program v).control &&& 0xC0 = 0 := by
  show v &&& 0x3F#8 &&& 0xC0#8 = 0
  rw [BitVec.and_assoc]
  exact BitVec.and_zero

theorem Counter.control_latchCount (c : Counter) : c.latchCount.control = c.control := by
  unfold latchCount
  split <;> rfl

theorem Counter.control_writeByte (c : Counter) (v : Byte) : (c.writeByte v).1.control = c.control := by
  unfold writeByte
  cases c.format with
  | unset | lsb | msb => rfl
  | lsbMsb => dsimp only; split <;> rfl

theorem Counter.control_afterRead (c : Counter) : c.afterRead.control = c.control := by
  unfold afterRead
  cases c.format with
  | unset | lsb | msb => rfl
  | lsbMsb => dsimp only; split <;> rfl

theorem Counter.control_tick0 (c : Counter) : c.tick0.1.control = c.control := by
  simp only [tick0]
  split <;> rfl

theorem Counter.control_tick2 (c : Counter) : c.tick2.1.control = c.control := by
  simp only [tick2]
  split
  · rfl
  · split <;> rfl

theorem Counter.control_tick3 (c : Counter) : c.tick3.1.control = c.control := by
  simp only [tick3]
  split <;> rfl

theorem Counter.control_tick (c : Counter) : c.tick.1.control = c.control := by
  unfold tick
  split
  · rfl
  · cases c.mode with
    | m0 => exact c.control_tick0
    | m2 => exact c.control_tick2
    | m3 => exact c.control_tick3
    | m1 | m4 | m5 => rfl

theorem State.Inv.setCounter {s : State} (h : s.Inv) {k : Fin 3} {x : Counter} (select : x.control &&& 0xC0 = 0) :
    (s.setPit (s.pit.setCounter k x)).Inv := by
  refine h.setPit fun j => ?_
  rw [Pit.counter_setCounter]
  split
  · exact select
  · exact h.control j

/-- A control word changes the counter it selects, or none (R231). -/
theorem State.Inv.onSelected {s : State} (h : s.Inv) {v : Byte} {f : Counter → Counter}
    (select : ∀ c : Counter, c.control &&& 0xC0 = 0 → (f c).control &&& 0xC0 = 0) :
    (s.setPit (s.pit.onSelected v f)).Inv := by
  unfold Pit.onSelected
  cases counterOf (ctlSelect v) with
  | some k => exact h.setCounter (select _ (h.control k))
  | none => exact h

theorem State.Inv.pitTick {s : State} (h : s.Inv) : (s.setPit s.pit.tick).Inv :=
  h.setPit fun k => by rw [Pit.counter_tick, Counter.control_tick]; exact h.control k

/-! ### ParallelInterface: the cassette counter (R30) -/

/-- R286: the counter starts again where it would reach the divider. -/
theorem Ppi.clk2_advanceClock_lt {p : Ppi} {div : Nat} (h : p.clk2 < div) : (p.advanceClock div).clk2 < div := by
  by_cases last : p.clk2 + 1 = div
  · rw [advanceClock_of_last last]
    exact Nat.zero_lt_of_lt h
  · rw [advanceClock_of_not_last last]
    exact lt_of_le_of_ne h last

theorem State.Inv.typeKey {s : State} (h : s.Inv) {code : Word16} : (s.typeKey code).Inv := by
  refine .raiseLine ?_
  exact h.setPpi h.cassette

theorem Res.MeetsInv.execPpiRdc {s : State} (h : s.Inv) : (execPpiRdc s).MeetsInv := by
  refine .answer (h.setPpi ?_)
  split
  · exact Ppi.clk2_advanceClock_lt h.cassette
  · exact h.cassette

/-! ### EGAController: indexes, self-test counter and planes (R341, R345, R351) -/

theorem planeCell_lt {cfg : Config} (wf : cfg.wf = true) (off : Word16) : planeCell cfg off < cfg.egaPlaneSize := by
  obtain ⟨-, size, -⟩ := (Config.wf_iff cfg).mp wf
  exact Nat.mod_lt _ size

namespace Ega.Sound

variable {e : Ega} {cfg : Config}

/-- R343. -/
theorem reset (h : e.Sound cfg) : e.reset.Sound cfg :=
  { h with seqIndex := Nat.zero_le _, gfxIndex := Nat.zero_le _, selfTest := Nat.zero_le _ }

/-- R341: the self-test counter moves only while the script has an entry at it. -/
theorem readStatus (h : e.Sound cfg) : (e.readStatus cfg).2.Sound cfg := by
  unfold Ega.readStatus
  cases entry : cfg.egaScript[e.test]? with
  | some b =>
    obtain ⟨inside, -⟩ := List.getElem?_eq_some_iff.mp entry
    exact { h with selfTest := inside }
  | none => exact { h with }

/-- R330: a byte written inside the plane's size keeps the form of every plane. -/
theorem writePlane (h : e.Sound cfg) {p : BitVec 2} {cell : Nat} {v : Byte} (inside : cell < cfg.egaPlaneSize) :
    (e.writePlane p cell v).Sound cfg :=
  { h with
    planes := fun q => by
      rw [Ega.plane_writePlane]
      obtain ⟨wf, within⟩ := h.planes p
      split
      · exact ⟨Memory.write_wf cell v wf, Memory.write_within v inside within⟩
      · exact h.planes q }

theorem modeCheck (h : e.Sound cfg) {m : Byte} : (e.modeCheck m).Sound cfg := by
  unfold Ega.modeCheck
  split
  · exact { h with }
  · exact h

theorem writeRoundRobin (h : e.Sound cfg) {cell : Nat} {v m : Byte} (inside : cell < cfg.egaPlaneSize) :
    (e.writeRoundRobin cell v m).Sound cfg :=
  { h.modeCheck.writePlane inside with }

end Ega.Sound

/-- R347: each class writes one byte of one plane. -/
theorem State.Inv.writeByClass {s : State} (h : s.Inv) (c : WriteClass) (off : Word16) (v : Byte) :
    (s.writeByClass c off v).Inv := by
  have inside := planeCell_lt h.config off
  cases c with
  | single p => exact h.setEga (h.egaSound.writePlane inside)
  | oddEven high => exact h.setEga (h.egaSound.writePlane inside)
  | roundRobin => exact (h.setEga (h.egaSound.writeRoundRobin inside)).tookDraws

theorem Res.MeetsInv.execEgaMemw {s : State} (h : s.Inv) (off : Word16) (v : Byte) :
    (execEgaMemw off v s).MeetsInv := by
  refine .ite (fun _ => .done (h.setEga (h.egaSound.writePlane (planeCell_lt h.config off)))) fun _ => ?_
  cases writeClass s.cfg s.ega.seq with
  | none => exact .refused
  | some c => exact .done (h.writeByClass c off v)

/-! ### FloppyController: the phase (R381) and the drives (R36) -/

/-- The status bytes of the two phases differ (92_eei_decisions.md section 2). -/
theorem fdcResultStatus_ne_idle {cfg : Config} (wf : cfg.wf = true) : fdcResultStatus cfg ≠ cfg.fdcMsrIdle := by
  obtain ⟨-, -, -, -, ⟨nonzero, disjoint⟩, -⟩ := (Config.wf_iff cfg).mp wf
  intro same
  have absorbed : (cfg.fdcMsrIdle ||| cfg.fdcMsrResult) &&& cfg.fdcMsrResult = cfg.fdcMsrResult := by
    ext i hi
    simp +contextual
  have same : cfg.fdcMsrIdle ||| cfg.fdcMsrResult = cfg.fdcMsrIdle := same
  rw [same, disjoint] at absorbed
  exact nonzero absorbed.symm

theorem State.Inv.accepting_of_idle {s : State} (h : s.Inv) (idle : s.fdc.status = s.cfg.fdcMsrIdle) :
    s.fdc.accepting s.cfg :=
  h.phase.resolve_right fun ⟨status, _⟩ => fdcResultStatus_ne_idle h.config (status.symm.trans idle)

theorem State.Inv.answering_of_busy {s : State} (h : s.Inv) (busy : s.fdc.status ≠ s.cfg.fdcMsrIdle) :
    s.fdc.answering s.cfg :=
  h.phase.resolve_left fun ⟨status, _⟩ => busy status

/-- With nothing written a command is never whole: it has at least its opcode byte (R387). -/
theorem Fdc.accepting_of_empty {f : Fdc} {cfg : Config} (wf : cfg.wf = true) (status : f.status = cfg.fdcMsrIdle)
    (rd : f.rd = 0) (wr : f.wr = 0) : f.accepting cfg := by
  obtain ⟨-, -, length, -⟩ := (Config.wf_iff cfg).mp wf
  exact ⟨status, rd, lt_of_eq_of_lt wr (length _).1⟩

/-- A drive that has cylinders stays sound on any of them (R390, R392). -/
theorem Drive.sound.arrive {d : Drive} {g : Geometry} {cfg : Config} {cylinder : Nat} {target : Byte} (h : d.sound g)
    (inside : cylinder < d.cylinders) : (d.arrive cfg cylinder target).sound g := by
  obtain ⟨heads, cylinders, sectors, -⟩ := h
  exact ⟨heads, cylinders, sectors, inside⟩

theorem Drive.sound.cylinders_pos {d : Drive} {g : Geometry} (h : d.sound g) : 0 < d.cylinders := by
  obtain ⟨-, -, -, position⟩ := h
  exact Nat.zero_lt_of_lt position

/-- R392: the clamp keeps the head on a cylinder. -/
theorem Drive.seekCylinder_lt {d : Drive} (pos : 0 < d.cylinders) (req : Byte) : d.seekCylinder req < d.cylinders := by
  simp only [seekCylinder]
  omega

namespace Fdc.DrivesSound

variable {f : Fdc} {cfg : Config}

theorem setDrive (h : f.DrivesSound cfg) {d : BitVec 2} {x : Drive}
    (sound : x.sound (cfg.fdcGeom[d.toNat]'d.isLt)) : (f.setDrive d x).DrivesSound cfg := by
  intro e
  rw [Fdc.driveAt_setDrive]
  split
  next same => exact same ▸ sound
  next => exact h e

theorem init (h : f.DrivesSound cfg) : (f.init cfg).DrivesSound cfg := by
  intro d
  rw [Fdc.driveAt_init]
  exact h d

theorem recalibrate (h : f.DrivesSound cfg) : (f.recalibrate cfg).DrivesSound cfg :=
  h.setDrive ((h f.addressed).arrive (h f.addressed).cylinders_pos)

theorem seek (h : f.DrivesSound cfg) : (f.seek cfg).DrivesSound cfg :=
  h.setDrive ((h f.addressed).arrive (Drive.seekCylinder_lt (h f.addressed).cylinders_pos _))

theorem afterRead (h : f.DrivesSound cfg) : (f.afterRead cfg).DrivesSound cfg := by
  unfold Fdc.afterRead
  split <;> exact h

end Fdc.DrivesSound

/-- R394: the last byte read empties the controller; before it, one more of the two is read. -/
theorem Fdc.answering.afterRead {f : Fdc} {cfg : Config} (h : f.answering cfg) (wf : cfg.wf = true) :
    (f.afterRead cfg).accepting cfg ∨ (f.afterRead cfg).answering cfg := by
  obtain ⟨status, left, two⟩ := h
  unfold Fdc.afterRead
  split
  next => exact .inl (accepting_of_empty wf rfl rfl rfl)
  next more => exact .inr ⟨status, lt_of_le_of_ne left more, two⟩

/-- The controller empty again, and ready. -/
theorem State.Inv.setFdc_of_empty {s : State} (h : s.Inv) {f : Fdc} (status : f.status = s.cfg.fdcMsrIdle)
    (rd : f.rd = 0) (wr : f.wr = 0) (drives : f.DrivesSound s.cfg) : (s.setFdc f).Inv :=
  h.setFdc (.inl (Fdc.accepting_of_empty h.config status rd wr)) drives

theorem State.Inv.fdcInit {s : State} (h : s.Inv) {f : Fdc} (drives : f.DrivesSound s.cfg) :
    (s.setFdc (f.init s.cfg)).Inv :=
  h.setFdc_of_empty rfl rfl rfl drives.init

namespace Res.MeetsInv

variable {s : State}

/-- R388: whatever the command, the controller is empty after it or holds the two bytes of SENSE_INTERRUPT. -/
theorem fdcExecute (h : s.Inv) {f : Fdc} (idle : f.status = s.cfg.fdcMsrIdle) (drives : f.DrivesSound s.cfg) :
    (fdcExecute (s.setFdc f)).MeetsInv := by
  obtain ⟨-, -, e⟩ | ⟨-, e⟩ | ⟨-, -, e⟩ | ⟨-, -, e⟩ | ⟨-, -, -, e⟩ := fdcExecute_cases (s.setFdc f) <;> rw [e]
  · refine .done (.raiseLine ?_)
    exact h.setFdc_of_empty idle rfl rfl drives.recalibrate
  · exact .done (h.setFdc (.inr ⟨rfl, Nat.two_pos, rfl⟩) drives)
  · refine .done (.raiseLine ?_)
    exact h.setFdc_of_empty idle rfl rfl drives.seek
  · exact .refused
  · exact .done (h.setFdc_of_empty idle rfl rfl drives)

/-- R385: a byte is appended only where it leaves the command short of its length; else the command is executed. -/
theorem fdcDataWrite (h : s.Inv) {v : Byte} : (fdcDataWrite v s).MeetsInv := by
  obtain ⟨-, e⟩ | ⟨idle, short, e⟩ | ⟨idle, -, e⟩ := fdcDataWrite_cases v s <;> rw [e]
  · exact .done h
  · obtain ⟨-, rd, -⟩ := h.accepting_of_idle idle
    exact .done (h.setFdc (.inl ⟨idle, rd, short⟩) h.drivesSound)
  · exact fdcExecute h idle h.drivesSound

theorem fdcCommandBytes (h : s.Inv) {bytes : List Byte} : (fdcCommandBytes bytes s).MeetsInv := by
  induction bytes generalizing s with
  | nil => exact .done h
  | cons b rest ih => exact .andThen (.fdcDataWrite h) fun _ hu => ih hu

/-- R394. -/
theorem execFdcRddata (h : s.Inv) : (execFdcRddata s).MeetsInv :=
  .ite (fun _ => .answerDraw h) fun busy =>
    .answer (h.setFdc ((h.answering_of_busy busy).afterRead h.config) h.drivesSound.afterRead)

/-- R382. -/
theorem execFdcWrdor (h : s.Inv) (v : Byte) : (execFdcWrdor v s).MeetsInv := by
  have latched : (s.setFdc (if v.getLsbD 2 then { s.fdc with outputReg := v }
      else Fdc.init { s.fdc with outputReg := v } s.cfg)).Inv := by
    split
    · exact h.setFdc h.phase h.drivesSound
    · exact h.fdcInit h.drivesSound
  exact .done (.ite latched.raiseLine latched)

theorem execFdcOther (h : s.Inv) (p : Word16) (acc : PortAccess) : (execFdcOther p acc s).MeetsInv := by
  cases acc with
  | read => exact .answerDraw h
  | write v => exact .done h

end Res.MeetsInv

/-! ### Every operation, every access and the step -/

/-- Every operation keeps the invariant: most touch no part of it, and each of the others has its rule above. -/
theorem exec_meetsInv {s : State} (h : s.Inv) (i : Instr) : Res.MeetsInv (exec i s) := by
  cases i with
  | dmaRdstat | picRdstat | picRdmask | ppiRdb | ppiRdctl | emsRdsel | crtcRddata | egaRdseq | egaRdgfx | egaMemr
  | fdcRddor | fdcRdmsr | fdcRdccr => exact .answer h
  | dmaWr08 | pitSel3 | ppiWra | crtcWrstat | egaWr3c2 => exact .done h
  | pitRdctl | crtcRdidx | egaRd3c2 | egaRdidx => exact .answerDraw h
  | picHasint => exact .answerFlag h
  | crtcBadport => exact .violation
  | dmaWrAddr | dmaWrCnt => exact .done h.setDma
  | dmaRdAddr | dmaRdCnt => exact .answer h.setDma
  | picIcw0 | picSetmask => exact .done (h.setPic fun _ => rfl)
  | picSetmask0 => exact .done (h.setPic nofun)
  | picIcwn => exact .done (h.setPic h.masks)
  | picEoi v | picRdsel v | picOcwNop v => exact .done (h.picCommand v)
  | picCallirq => exact .ite (fun _ => .done h.raiseLine) fun _ => .refused
  | picClearirq => exact .ite (fun _ => .done h.dropLine) fun _ => .refused
  | picNextint => exact .answer h.nextInt
  | evMaskapply => exact .ite (fun _ => .done (h.setPic fun _ => rfl)) fun _ => .refused
  | pitWr k v =>
    have loaded := h.setCounter (k := k) (((s.pit.counter k).control_writeByte v).symm ▸ h.control k)
    exact .done (.ite loaded.dropLine loaded)
  | pitRd k =>
    exact .ite (fun _ => .answerDraw h) fun _ =>
      .answer (h.setCounter ((s.pit.counter k).control_afterRead.symm ▸ h.control k))
  | pitProg v => exact .done (h.onSelected fun c _ => c.select_program v)
  | pitLatch => exact .done (h.onSelected fun c select => c.control_latchCount.symm ▸ select)
  | pitTick => exact .done (.ite h.pitTick.raiseLine h.pitTick)
  | ppiRda => exact .ite (fun _ => .answer h) fun _ => .ite (fun _ => .answer (h.setPpi h.cassette)) fun _ => .answer h
  | ppiRdc => exact .execPpiRdc h
  | ppiWrb =>
    refine .done (.ite (.dropLine ?_) ?_)
    all_goals exact h.setPpi h.cassette
  | ppiWrc | ppiWrctl => exact .done (h.setPpi h.cassette)
  | ppiKeytyped => exact .done h.typeKey
  | evKbdreset =>
    refine .ite (fun _ => .done (.typeKey ?_)) fun _ => .refused
    exact h.setPpi h.cassette
  | emsWrsel => exact .done (h.setEms h.store)
  | emsMemr => exact .ite (fun _ => .ite (fun _ => .answer h) fun _ => .violation) fun _ => .answerDraw h
  | emsMemw a v =>
    obtain ⟨wf, within⟩ := h.store
    exact .ite (fun _ => .ite
      (fun inside => .done (h.setEms ⟨Memory.write_wf _ v wf, Memory.write_within v inside within⟩))
      fun _ => .violation) fun _ => .done h
  | crtcWridx => exact .ite (fun _ => .violation) fun inRange => .done (h.setCrtc (Nat.lt_of_not_le inRange))
  | crtcWrdata => exact .done (h.setCrtc h.crtcIndex)
  | crtcRdstat => exact .answer (h.setCrtc h.crtcIndex)
  | crtcGetreg => exact .ite (fun _ => .answer h) fun _ => .refused
  | egaWridx =>
    exact .ite (fun _ => .violation) fun inRange =>
      .done (h.setEga { h.egaSound with egaIndex := Nat.le_of_not_lt inRange })
  | egaWrseqidx =>
    exact .ite (fun _ => .violation) fun inRange =>
      .done (h.setEga { h.egaSound with seqIndex := Nat.le_of_not_lt inRange })
  | egaWrgfxidx =>
    exact .ite (fun _ => .violation) fun inRange =>
      .done (h.setEga { h.egaSound with gfxIndex := Nat.le_of_not_lt inRange })
  | egaWrdata =>
    exact .ite (fun _ => .done (h.setEga { h.egaSound with })) fun _ => .done (h.setEga { h.egaSound with })
  | egaRddata => exact .ite (fun _ => .answer h) fun _ => .answer h
  | egaRdstat => exact .answer (h.setEga h.egaSound.readStatus)
  | egaWrseq | egaWrgfx => exact .done (h.setEga { h.egaSound with })
  | egaReset => exact .ite (fun _ => .done (h.setEga h.egaSound.reset)) fun _ => .refused
  | egaMemw off v => exact .execEgaMemw h off v
  | fdcWrdor v => exact .execFdcWrdor h v
  | fdcWrdata => exact .fdcDataWrite h
  | fdcRddata => exact .execFdcRddata h
  | fdcWrccr => exact .done (h.setFdc h.phase h.drivesSound)
  | fdcOther p acc => exact .execFdcOther h p acc
  | fdcInit => exact .done (h.fdcInit h.drivesSound)
  | fdcReadTrack | fdcSpecify | fdcSenseDriveStatus | fdcWriteData | fdcReadData | fdcRecalibrate | fdcSenseInterrupt
  | fdcWriteDeletedData | fdcReadId | fdcReadDeletedData | fdcFormatTrack | fdcSeek | fdcScanEqual
  | fdcScanLowOrEqual | fdcScanHighOrEqual | fdcInvalid => exact .fdcCommandBytes h

theorem runAccess_meetsInv {s : State} (h : s.Inv) (a : Access) : (runAccess a s).MeetsInv := by
  cases a with
  | instr i => exact exec_meetsInv h i
  | unclaimedIn | ignoredIn => exact .answerDraw h
  | unclaimedOut | ignoredOut | outsideOut16 => exact .done h
  | outsideIn16 => exact .next h.tookDraws.setResult
  | reject e => exact .refused

theorem perform_meetsInv {s : State} (h : s.Inv) (r : Request) : (perform r s).MeetsInv := by
  cases r with
  | portIn16 p => exact .andThen (runAccess_meetsInv h _) fun _ hu => .next hu.setResult
  | op | fdcCmd | portOut16 | memIn16 | memOut16 => exact runAccess_meetsInv h _

/-- Settles O8: a step rests, or performs a request in a state from which only the request has been taken. -/
theorem everyStepKeepsTheInvariant : Obligations.EveryStepKeepsTheInvariant := by
  intro s t h
  obtain ⟨-, rests⟩ | ⟨r, rest, -, performs⟩ := step_cases s
  · rw [rests]
    exact Res.MeetsInv.next h t
  · rw [performs]
    exact perform_meetsInv h.setRequests r t

end Sys2Proof.Machine
end

section
/-! SUPPORT. The EGAController (46_ega.md): its data ports and status port, `reset()`, and the graphics window, where a
write is one byte stored in one plane and a read looks at one plane. -/

namespace Sys2Proof.Machine

/-! ### The data port of the wrapped and the own registers (R334, R335) -/

theorem exec_egaWrdata_of_wrapped (p : Word16) (v : Byte) {s : State} (wrapped : s.ega.crtc.index.toNat ≤ 0x11) :
    exec (.egaWrdata p v) s = .next { s with
      ega := { s.ega with crtc := { s.ega.crtc with
        reg := bankWrite s.ega.crtc.reg s.ega.crtc.index.toNat v } }
      result := .none } := if_pos wrapped

theorem exec_egaWrdata_of_own (p : Word16) (v : Byte) {s : State} (own : ¬ s.ega.crtc.index.toNat ≤ 0x11) :
    exec (.egaWrdata p v) s = .next { s with
      ega := { s.ega with reg := bankWrite s.ega.reg (s.ega.crtc.index.toNat - 0x12) v }
      result := .none } := if_neg own

theorem exec_egaRddata_of_wrapped (p : Word16) {s : State} (wrapped : s.ega.crtc.index.toNat ≤ 0x11) :
    exec (.egaRddata p) s = answer (bankRead s.ega.crtc.reg s.ega.crtc.index.toNat) s := if_pos wrapped

theorem exec_egaRddata_of_own (p : Word16) {s : State} (own : ¬ s.ega.crtc.index.toNat ≤ 0x11) :
    exec (.egaRddata p) s = answer (bankRead s.ega.reg (s.ega.crtc.index.toNat - 0x12)) s := if_neg own

/-- Settles O45: the index picks the bank, and the laws of a bank do the rest. -/
theorem egaDataPortReachesTheSelectedRegister : Obligations.EgaDataPortReachesTheSelectedRegister := by
  rintro p v s i rfl
  refine ⟨fun inBank => ?_, fun ⟨above, inBank⟩ => ?_⟩
  · have wrapped := Nat.le_of_lt_succ inBank
    refine ⟨⟨_, exec_egaWrdata_of_wrapped p v wrapped, rfl, fun j => ?_⟩, ?_⟩
    · exact (bankWrite_get _ _ v j.isLt).trans (if_congr eq_comm rfl rfl)
    · rw [exec_egaRddata_of_wrapped p wrapped, bankRead_of_lt _ inBank, answer_eq]
  · have own := Nat.not_le_of_lt above
    refine ⟨⟨_, exec_egaWrdata_of_own p v own, rfl, fun j => ?_⟩, ?_⟩
    · exact (bankWrite_get _ _ v j.isLt).trans (if_congr (by omega) rfl rfl)
    · rw [exec_egaRddata_of_own p own, bankRead_of_lt _ (by omega), answer_eq]

/-! ### The sequencer and graphics data ports (R337, R339) -/

theorem exec_egaWrseq (v : Byte) (s : State) :
    exec (.egaWrseq v) s = .next { s with
      ega := { s.ega with seq := bankWrite s.ega.seq s.ega.seqIndex.toNat v }
      result := .none } := rfl

theorem exec_egaRdseq (s : State) : exec .egaRdseq s = answer (bankRead s.ega.seq s.ega.seqIndex.toNat) s := rfl

theorem exec_egaWrgfx (v : Byte) (s : State) :
    exec (.egaWrgfx v) s = .next { s with
      ega := { s.ega with gfx := bankWrite s.ega.gfx s.ega.gfxIndex.toNat v }
      result := .none } := rfl

theorem exec_egaRdgfx (s : State) : exec .egaRdgfx s = answer (bankRead s.ega.gfx s.ega.gfxIndex.toNat) s := rfl

/-- Settles O46, by the laws of a bank with one element written. -/
theorem egaBankPortsReachTheSelectedRegister : Obligations.EgaBankPortsReachTheSelectedRegister := by
  refine fun v s => ⟨fun inBank => ⟨⟨_, exec_egaWrseq v s, rfl, fun j => ?_⟩, ?_⟩,
    fun inBank => ⟨⟨_, exec_egaWrgfx v s, rfl, fun j => ?_⟩, ?_⟩⟩
  · exact (bankWrite_get _ _ v j.isLt).trans (if_congr eq_comm rfl rfl)
  · rw [exec_egaRdseq, bankRead_of_lt _ inBank, answer_eq]
  · exact (bankWrite_get _ _ v j.isLt).trans (if_congr eq_comm rfl rfl)
  · rw [exec_egaRdgfx, bankRead_of_lt _ inBank, answer_eq]

/-! ### The status port (R341) and `reset()` (R343) -/

theorem Ega.readStatus_of_lt {e : Ega} {cfg : Config} (script : e.test < cfg.egaScript.length) :
    e.readStatus cfg = (cfg.egaScript[e.test], { e with test := e.test + 1 }) := by
  rw [Ega.readStatus, List.getElem?_eq_getElem script]

theorem Ega.readStatus_of_le {e : Ega} {cfg : Config} (ended : cfg.egaScript.length ≤ e.test) :
    e.readStatus cfg = (retracePattern e.crtc.retracePhase,
      { e with crtc := { e.crtc with retracePhase := e.crtc.retracePhase + 1 } }) := by
  rw [Ega.readStatus, List.getElem?_eq_none ended]
  rfl

theorem exec_egaRdstat (p : Word16) (s : State) :
    exec (.egaRdstat p) s = .next { s with
      ega := (s.ega.readStatus s.cfg).2
      result := .byte (s.ega.readStatus s.cfg).1 } := rfl

/-- Settles O47: the script decides by its length. -/
theorem egaStatusReadsTheScriptThenTheCycle : Obligations.EgaStatusReadsTheScriptThenTheCycle := by
  refine fun p s => ⟨fun script => ?_, fun ended => ?_⟩
  · rw [exec_egaRdstat, Ega.readStatus_of_lt script]
  · rw [exec_egaRdstat, Ega.readStatus_of_le ended, retracePattern_eq]

theorem exec_egaReset_of_ega {s : State} (h : s.cfg.hasEga = true) :
    exec .egaReset s = .next { s with ega := s.ega.reset, result := .none } := if_pos h

/-- Settles O48: the fields are those of `Ega.reset`, and the script is read at the counter that it leaves, 0. -/
theorem egaResetZeroesTheEgaOwnedState : Obligations.EgaResetZeroesTheEgaOwnedState := by
  intro s ega
  refine ⟨_, exec_egaReset_of_ega ega, rfl, rfl, rfl, ?banks, ⟨rfl, rfl, rfl, rfl, rfl⟩, fun p script => ?status⟩
  case banks =>
    exact ⟨fun i => Vector.getElem_replicate i.isLt, fun i => Vector.getElem_replicate i.isLt,
      fun i => Vector.getElem_replicate i.isLt⟩
  case status =>
    refine ⟨_, exec_egaRdstat p _, ?_⟩
    rw [Ega.readStatus_of_lt (e := s.ega.reset) script]
    rfl

/-! ### One byte of one plane (R330, R345) -/

/-- A byte written in one plane is read back there, and no other byte of any plane changes. -/
theorem Ega.storedOnly_writePlane (e : Ega) (p : BitVec 2) (cell : Nat) (v : Byte) :
    e.storedOnly (e.writePlane p cell v) p cell v := by
  refine ⟨fun wf => ?_, fun q n other => ?_⟩
  · rw [Ega.plane_writePlane, if_pos rfl, Memory.read_write_same cell v wf]
  · rw [Ega.plane_writePlane]
    split
    case isTrue same =>
      subst same
      exact Memory.read_write_other _ v (other.resolve_left (· rfl))
    case isFalse => rfl

/-- R346: the address parity, as the statements write it. -/
theorem parityPlane_eq (high : Bool) (off : Word16) :
    parityPlane high off = BitVec.ofNat 2 ((if high then 2 else 0) + off.toNat % 2) := by
  have parity : off.getLsbD 0 = decide (off.toNat % 2 = 1) := Nat.testBit_zero _
  rw [parityPlane, parity]
  obtain even | odd := Nat.mod_two_eq_zero_or_one off.toNat
  · rw [even]; revert high; decide
  · rw [odd]; revert high; decide

theorem parityPlane_false (off : Word16) : parityPlane false off = BitVec.ofNat 2 (off.toNat % 2) := by
  simpa using parityPlane_eq false off

/-! ### Window writes (R346, R347, R349) -/

theorem exec_egaMemw_of_chained (off : Word16) (v : Byte) {s : State} (chain : chained s.cfg s.ega.gfx = true) :
    exec (.egaMemw off v) s = done (s.setEga (s.ega.writePlane (parityPlane false off) (planeCell s.cfg off) v)) :=
  if_pos chain

theorem exec_egaMemw_of_class (off : Word16) (v : Byte) {s : State} {c : WriteClass}
    (unchained : chained s.cfg s.ega.gfx = false) (supplied : writeClass s.cfg s.ega.seq = some c) :
    exec (.egaMemw off v) s = done (s.writeByClass c off v) := by
  show execEgaMemw off v s = _
  rw [execEgaMemw, unchained, supplied]
  rfl

/-- The state after one byte is stored in one plane: of the whole machine, only the planes differ. -/
theorem done_writePlane_eq_next (s : State) (p : BitVec 2) (cell : Nat) (v : Byte) :
    ∃ t, done (s.setEga (s.ega.writePlane p cell v)) = .next t
      ∧ t = { s with ega := { s.ega with vram := t.ega.vram }, result := .none }
      ∧ s.ega.storedOnly t.ega p cell v :=
  ⟨_, rfl, rfl, s.ega.storedOnly_writePlane p cell v⟩

/-- R349: the plane that a write of the round-robin class stores in, under a video-mode byte `m`. -/
def Ega.rotatedPlane (e : Ega) (m : Byte) : BitVec 2 := if m = e.lastMode then e.rr else 0

theorem Ega.modeCheck_eq (e : Ega) (m : Byte) : e.modeCheck m = { e with rr := e.rotatedPlane m, lastMode := m } := by
  rw [Ega.modeCheck, Ega.rotatedPlane]
  by_cases same : m = e.lastMode
  · subst same; simp
  · simp [same]

/-- R347, R349: the byte goes to the plane of the rotation, which then moves on by one. -/
theorem Ega.writeRoundRobin_eq (e : Ega) (cell : Nat) (v m : Byte) :
    e.writeRoundRobin cell v m =
      { e.writePlane (e.rotatedPlane m) cell v with rr := e.rotatedPlane m + 1, lastMode := m } := by
  rw [Ega.writeRoundRobin, Ega.modeCheck_eq]
  rfl

/-- Settles O49: each layout and each class is one byte stored in one plane; the rotation is that of the mode byte. -/
theorem egaWindowWriteStoresInOnePlane : Obligations.EgaWindowWriteStoresInOnePlane := by
  rintro off v s cell rfl
  refine ⟨fun chain => ?_, fun unchained => ⟨fun p single => ?_, fun high oddEven => ?_, fun roundRobin => ?_⟩⟩
  · rw [exec_egaMemw_of_chained off v chain, parityPlane_false]
    exact done_writePlane_eq_next s _ _ v
  · rw [exec_egaMemw_of_class off v unchained single]
    exact done_writePlane_eq_next s _ _ v
  · rw [exec_egaMemw_of_class off v unchained oddEven, ← parityPlane_eq]
    exact done_writePlane_eq_next s _ _ v
  · rw [exec_egaMemw_of_class off v unchained roundRobin, State.writeByClass, Ega.writeRoundRobin_eq]
    exact ⟨_, _, _, rfl, rfl, rfl, rfl, s.ega.storedOnly_writePlane _ _ v⟩

/-! ### Window reads (R346, R350) -/

theorem exec_egaMemr (off : Word16) (s : State) :
    exec (.egaMemr off) s = .next { s with
      result := .byte ((s.ega.plane (windowReadPlane s.cfg s.ega off)).read (planeCell s.cfg off)) } := rfl

theorem windowReadPlane_of_chained {cfg : Config} {e : Ega} (chain : chained cfg e.gfx = true) (off : Word16) :
    windowReadPlane cfg e off = parityPlane false off := if_pos chain

theorem windowReadPlane_of_unchained {cfg : Config} {e : Ega} (unchained : chained cfg e.gfx = false) (off : Word16) :
    windowReadPlane cfg e off = readPlane cfg e.gfx := by
  rw [windowReadPlane, unchained]
  rfl

/-- R350, the default: the read-map select is the low two bits of its register. -/
theorem toNat_readPlane_of_readMapSelect {cfg : Config} (rule : cfg.egaReadPlane = .readMapSelect)
    (gfx : Vector Byte 9) : (readPlane cfg gfx).toNat = gfx[4].toNat % 4 := by
  rw [readPlane, rule, bankRead_of_lt gfx (by decide)]
  exact BitVec.extractLsb'_toNat 0 2 gfx[4]

/-- The planes are no part of what selects the plane of a read. -/
theorem windowReadPlane_writePlane (cfg : Config) (e : Ega) (p : BitVec 2) (cell : Nat) (v : Byte) (off : Word16) :
    windowReadPlane cfg (e.writePlane p cell v) off = windowReadPlane cfg e off := rfl

/-- R351 (c), (d): a write that stores in the plane which a read of the same offset looks at is read back. -/
theorem exec_egaMemr_after_writePlane (off : Word16) (v : Byte) (s : State)
    (wf : (s.ega.plane (windowReadPlane s.cfg s.ega off)).wf = true)
    (write : exec (.egaMemw off v) s =
      done (s.setEga (s.ega.writePlane (windowReadPlane s.cfg s.ega off) (planeCell s.cfg off) v))) :
    ∃ t, runAll [.egaMemw off v, .egaMemr off] s = .next t ∧ t.result = .byte v := by
  obtain ⟨readBack, -⟩ := s.ega.storedOnly_writePlane (windowReadPlane s.cfg s.ega off) (planeCell s.cfg off) v
  refine ⟨_, by rw [runAll, write]; rfl, ?_⟩
  simpa only [State.setResult_ega, State.setResult_cfg, State.setResult_result, State.setEga_ega, State.setEga_cfg,
    windowReadPlane_writePlane, Result.byte.injEq] using readBack wf

/-- Settles O50: the plane by the layout; a byte of the chained layout, or of the one plane, is in the plane read. -/
theorem egaWindowReadAnswersOnePlane : Obligations.EgaWindowReadAnswersOnePlane := by
  rintro off v s cell rfl
  refine ⟨fun chain => ?_, fun unchained => ?_, fun rule => toNat_readPlane_of_readMapSelect rule _,
    fun wf meets => exec_egaMemr_after_writePlane off v s (wf _) ?_⟩
  · rw [exec_egaMemr, windowReadPlane_of_chained chain, parityPlane_false, planeCell]
  · rw [exec_egaMemr, windowReadPlane_of_unchained unchained, planeCell]
  · cases layout : chained s.cfg s.ega.gfx with
    | true => rw [exec_egaMemw_of_chained off v layout, windowReadPlane_of_chained layout]
    | false =>
      have single := meets.resolve_left (by simp [layout])
      rw [exec_egaMemw_of_class off v layout single, windowReadPlane_of_unchained layout, State.writeByClass]

end Sys2Proof.Machine
end

section
/-! SUPPORT. The ports of the FloppyController (47_fdc_8272.md): the digital-output register and Init(), a byte written
to the data port, a byte read from it. -/

namespace Sys2Proof.Machine

/-! ### Init() and the digital-output register (R382, R395) -/

theorem Fdc.init_initialised (f : Fdc) (cfg : Config) : Fdc.initialised cfg f (f.init cfg) :=
  ⟨rfl, f.driveAt_init cfg⟩

/-- R382 at the state: the enable bit decides about the controller, its rise about line 6. -/
theorem exec_fdcWrdor (v : Byte) (s : State) :
    exec (.fdcWrdor v) s = .next { s with
      fdc := if v.getLsbD 2 then { s.fdc with outputReg := v } else Fdc.init { s.fdc with outputReg := v } s.cfg
      pic := { s.pic with
        irr := if !s.fdc.outputReg.getLsbD 2 && v.getLsbD 2 then setBit s.pic.irr 6 else s.pic.irr }
      result := .none } := by
  show execFdcWrdor v s = _
  unfold execFdcWrdor
  cases s.fdc.outputReg.getLsbD 2 <;> cases v.getLsbD 2 <;> rfl

theorem exec_fdcInit (s : State) : exec .fdcInit s = .next { s with fdc := s.fdc.init s.cfg, result := .none } := rfl

/-- Settles O53: the controller by the enable bit, line 6 by its rise; FDC_INIT is Init() alone. -/
theorem floppyEnableBitResetsTheController : Obligations.FloppyEnableBitResetsTheController := by
  refine fun v s => ⟨⟨_, exec_fdcWrdor v s, rfl, fun enabled => if_pos enabled, fun disabled => ?_, fun n hn => ?_⟩,
    _, exec_fdcInit s, rfl, s.fdc.init_initialised s.cfg⟩
  · simpa only [disabled, Bool.false_eq_true, if_false] using Fdc.init_initialised { s.fdc with outputReg := v } s.cfg
  · rw [Bool.and_assoc]
    cases !s.fdc.outputReg.getLsbD 2 && v.getLsbD 2 with
    | true => simp [getLsbD_setBit _ hn]
    | false => simp

/-! ### A byte written to the data port (R385) -/

section

variable {v : Byte} {s : State}

theorem fdcDataWrite_of_unread (unread : s.fdc.status ≠ s.cfg.fdcMsrIdle) : fdcDataWrite v s = done s := if_pos unread

theorem fdcDataWrite_of_short (idle : s.fdc.status = s.cfg.fdcMsrIdle)
    (short : s.fdc.wr + 1 < cbReq s.cfg (fdcOpcode (bankRead (s.fdc.append v).buf 0))) :
    fdcDataWrite v s = done (s.setFdc (s.fdc.append v)) :=
  (if_neg (not_not.mpr idle)).trans (if_neg (Nat.not_le.mpr short))

theorem fdcDataWrite_of_whole (idle : s.fdc.status = s.cfg.fdcMsrIdle)
    (whole : cbReq s.cfg (fdcOpcode (bankRead (s.fdc.append v).buf 0)) ≤ s.fdc.wr + 1) :
    fdcDataWrite v s = fdcExecute (s.setFdc (s.fdc.append v)) :=
  (if_neg (not_not.mpr idle)).trans (if_pos whole)

end

theorem Fdc.append_of_lt {f : Fdc} (h : f.wr < 9) (v : Byte) :
    f.append v = { f with buf := f.buf.set f.wr v h, wr := f.wr + 1 } := by
  rw [append, bankWrite_of_lt f.buf v h]

/-- The opcodes of the commands that have an effect: RECALIBRATE, SENSE_INTERRUPT and SEEK (R388, R393). -/
def effectOpcodes : List (BitVec 5) := [0x07, 0x08, 0x0F]

theorem not_mem_effectOpcodes {op : BitVec 5} : op ∉ effectOpcodes ↔ op ≠ 0x07 ∧ op ≠ 0x08 ∧ op ≠ 0x0F := by
  simp [effectOpcodes]

/-- R393. -/
theorem fdcExecute_of_effectless {s : State} (effectless : fdcOpcode (bankRead s.fdc.buf 0) ∉ effectOpcodes) :
    fdcExecute s = done (s.setFdc s.fdc.toIdle) := by
  obtain ⟨recalibrate, sense, seek⟩ := not_mem_effectOpcodes.mp effectless
  exact (if_neg recalibrate).trans ((if_neg sense).trans (if_neg seek))

/-- Settles O54: the status decides whether the byte is taken, the length of the opcode whether it is the last. -/
theorem floppyDataWriteAppendsUntilTheLength : Obligations.FloppyDataWriteAppendsUntilTheLength := by
  refine fun v s => ⟨fdcDataWrite_of_unread, ?_⟩
  rintro room _ _ idle rfl rfl
  have appended := Fdc.append_of_lt room v
  have opcode : fdcOpcode (bankRead (s.fdc.append v).buf 0) = (s.fdc.buf.set s.fdc.wr v room)[0].extractLsb' 0 5 := by
    rw [appended, bankRead_of_lt _ (by decide), fdcOpcode]
  refine ⟨fun short => ?_, fun whole recalibrate sense seek => ?_⟩
  · refine (fdcDataWrite_of_short idle (opcode ▸ short)).trans ?_
    rw [appended]
    rfl
  · refine (fdcDataWrite_of_whole idle (opcode ▸ whole)).trans ?_
    rw [fdcExecute_of_effectless (not_mem_effectOpcodes.mpr (opcode ▸ ⟨recalibrate, sense, seek⟩)), appended]
    rfl

/-! ### A byte read from the data port (R394) -/

section

variable {s : State}

theorem exec_fdcRddata_of_idle (idle : s.fdc.status = s.cfg.fdcMsrIdle) : exec .fdcRddata s = answerDraw s :=
  if_pos idle

/-- R394 while a result is unread: what comes after depends on the byte's being the last. -/
theorem exec_fdcRddata_of_unread (h : s.fdc.rd < 9) (unread : s.fdc.status ≠ s.cfg.fdcMsrIdle) :
    exec .fdcRddata s = answer s.fdc.buf[s.fdc.rd] (s.setFdc (s.fdc.afterRead s.cfg)) :=
  bankRead_of_lt s.fdc.buf h ▸ if_neg unread

theorem exec_fdcRddata_of_last (h : s.fdc.rd < 9) (unread : s.fdc.status ≠ s.cfg.fdcMsrIdle)
    (last : s.fdc.rd + 1 = s.fdc.wr) :
    exec .fdcRddata s = .next { s with
      fdc := { s.fdc with wr := 0, rd := 0, status := s.cfg.fdcMsrIdle }, result := .byte s.fdc.buf[s.fdc.rd] } := by
  rw [exec_fdcRddata_of_unread h unread, Fdc.afterRead, if_pos last]
  rfl

theorem exec_fdcRddata_of_not_last (h : s.fdc.rd < 9) (unread : s.fdc.status ≠ s.cfg.fdcMsrIdle)
    (more : s.fdc.rd + 1 ≠ s.fdc.wr) :
    exec .fdcRddata s = .next { s with
      fdc := { s.fdc with rd := s.fdc.rd + 1 }, result := .byte s.fdc.buf[s.fdc.rd] } := by
  rw [exec_fdcRddata_of_unread h unread, Fdc.afterRead, if_neg more]
  rfl

end

/-- Settles O56: the status decides whether a byte is waiting, the two cursors whether it is the last. -/
theorem floppyDataReadDrainsTheResult : Obligations.FloppyDataReadDrainsTheResult := fun _ =>
  ⟨exec_fdcRddata_of_idle, fun h unread => ⟨exec_fdcRddata_of_last h unread, exec_fdcRddata_of_not_last h unread⟩⟩

end Sys2Proof.Machine
end

section
/-! SUPPORT. The floppy commands (R388 to R393): a command that is entered when none is under way is Execute on the
buffer that holds its bytes, and Execute is said once for each kind of command. -/

namespace Sys2Proof.Machine

/-! ### Entering a command (R385, R140) -/

/-- The controller with bytes appended in order. -/
def Fdc.appended (f : Fdc) (bytes : List Byte) : Fdc := bytes.foldl Fdc.append f

/-- Appending reaches the buffer and the write cursor only. -/
theorem Fdc.appended_frame (f : Fdc) (bytes : List Byte) :
    f.appended bytes = { f with buf := (f.appended bytes).buf, wr := f.wr + bytes.length } := by
  induction bytes generalizing f with
  | nil => rfl
  | cons b rest ih =>
    refine (ih (f.append b)).trans ?_
    rw [List.length_cons, Nat.add_comm rest.length 1, ← Nat.add_assoc]
    rfl

/-- The bytes stand in the buffer from the write cursor on. -/
theorem Fdc.appended_get (f : Fdc) (bytes : List Byte) {j : Nat} (h : j < 9) :
    (f.appended bytes).buf[j] = if j < f.wr then f.buf[j] else (bytes[j - f.wr]?).getD f.buf[j] := by
  induction bytes generalizing f with
  | nil => simp [appended]
  | cons b rest ih =>
    refine (ih (f.append b)).trans ?_
    simp only [append, bankWrite_get f.buf f.wr b h]
    rcases Nat.lt_trichotomy j f.wr with before | rfl | after
    · simp [before, Nat.lt_succ_of_lt before, before.ne']
    · simp
    · have behind : j - f.wr = j - (f.wr + 1) + 1 := by omega
      rw [if_neg (by omega), if_neg after.ne, if_neg (by omega), behind, List.getElem?_cons_succ]

theorem Fdc.appended_get_of_empty {f : Fdc} (empty : f.wr = 0) (bytes : List Byte) {j : Nat} (h : j < 9) :
    (f.appended bytes).buf[j] = (bytes[j]?).getD f.buf[j] := by
  rw [f.appended_get bytes h, empty]
  rfl

theorem Fdc.bankRead_appended {f : Fdc} (empty : f.wr = 0) (bytes : List Byte) {j : Nat} (h : j < 9) :
    bankRead (f.appended bytes).buf j = (bytes[j]?).getD f.buf[j] :=
  (bankRead_of_lt _ h).trans (Fdc.appended_get_of_empty empty bytes h)

/-- The opcode byte of an empty controller is the first byte appended. -/
theorem Fdc.bankRead_appended_zero {f : Fdc} (empty : f.wr = 0) (b0 : Byte) (ps : List Byte) :
    bankRead (f.appended (b0 :: ps)).buf 0 = b0 := Fdc.bankRead_appended empty (b0 :: ps) (by decide)

theorem Fdc.opcode_appended {f : Fdc} (empty : f.wr = 0) (opt : BitVec 3) (op : BitVec 5) (ps : List Byte) :
    fdcOpcode (bankRead (f.appended (fdcByte0 opt op :: ps)).buf 0) = op := by
  rw [Fdc.bankRead_appended_zero empty, fdcByte0_opcode]

/-- A byte appended behind the first one leaves the opcode byte. -/
theorem Fdc.bankRead_append_zero {f : Fdc} (later : f.wr ≠ 0) (v : Byte) :
    bankRead (f.append v).buf 0 = bankRead f.buf 0 := by
  rw [bankRead_of_lt _ (by decide), bankRead_of_lt _ (by decide), append, bankWrite_get _ _ _ (by decide), if_neg later]

/-- Execute looks at no result an operation returned before. -/
theorem fdcExecute_setResult (s : State) (x : Result) : fdcExecute (s.setResult x) = fdcExecute s := by
  simp only [fdcExecute]
  rfl

/-- A command ends with its last byte: no result is returned that would have to be taken back. -/
theorem fdcExecute_andThen_done (s : State) : (fdcExecute s).andThen done = fdcExecute s := by
  cases h : fdcExecute s with
  | next t =>
    have noResult : t.result = .none := (fdcExecute_frame h).result
    show done t = .next t
    rw [done, State.setResult, ← noResult]
  | fault e => rfl
  | refused e => rfl

/-- R385: bytes that reach the length of their opcode with the last one are appended, then executed. -/
theorem fdcCommandBytes_of_whole {b : Byte} {rest : List Byte} {s : State} (idle : s.fdc.status = s.cfg.fdcMsrIdle)
    (whole : s.fdc.wr + (rest.length + 1) = cbReq s.cfg (fdcOpcode (bankRead (s.fdc.append b).buf 0))) :
    fdcCommandBytes (b :: rest) s = fdcExecute (s.setFdc (s.fdc.appended (b :: rest))) := by
  induction rest generalizing b s with
  | nil =>
    show (fdcDataWrite b s).andThen done = _
    rw [fdcDataWrite_of_whole idle whole.ge, fdcExecute_andThen_done]
    rfl
  | cons b' rest ih =>
    have short : s.fdc.wr + 1 < cbReq s.cfg (fdcOpcode (bankRead (s.fdc.append b).buf 0)) := by
      rw [← whole, List.length_cons]
      omega
    have opcode : bankRead ((s.fdc.append b).append b').buf 0 = bankRead (s.fdc.append b).buf 0 :=
      Fdc.bankRead_append_zero (Nat.succ_ne_zero _) b'
    show (fdcDataWrite b s).andThen (fdcCommandBytes (b' :: rest)) = _
    rw [fdcDataWrite_of_short idle short]
    refine (ih (s := (s.setFdc (s.fdc.append b)).setResult .none) idle ?_).trans
      (fdcExecute_setResult (s.setFdc (s.fdc.appended (b :: b' :: rest))) .none)
    show s.fdc.wr + 1 + (rest.length + 1) = cbReq s.cfg (fdcOpcode (bankRead ((s.fdc.append b).append b').buf 0))
    rw [opcode, ← whole, List.length_cons]
    omega

/-- R140, R388: a command of the length its opcode asks for, entered when no command is under way, is Execute on the
buffer that holds it. -/
theorem exec_of_entered {i : Instr} {b0 : Byte} {ps : List Byte} {op : BitVec 5} {s : State}
    (bytes : encode i = .fdcCmd (b0 :: ps)) (opcode : fdcOpcode b0 = op) (idle : s.fdc.status = s.cfg.fdcMsrIdle)
    (empty : s.fdc.wr = 0) (length : cbReq s.cfg op = ps.length + 1) :
    exec i s = fdcExecute (s.setFdc (s.fdc.appended (b0 :: ps))) := by
  have first : bankRead (s.fdc.append b0).buf 0 = b0 := Fdc.bankRead_appended_zero empty b0 []
  rw [exec_of_encode_eq_fdcCmd bytes, fdcCommandBytes_of_whole idle]
  rw [first, opcode, empty, Nat.zero_add, length]

/-! ### The commands without an effect (R393) -/

/-- An opcode without a name is none of those that have an effect. -/
theorem not_mem_effectOpcodes_of_unnamed {op : BitVec 5} (unnamed : namedFdcOpcode op = false) :
    op ∉ effectOpcodes := by
  revert op; decide

/-- Settles O60: none of the thirteen has an opcode with an effect, so Execute empties the controller of the bytes
entered and changes nothing else. -/
theorem unimplementedFloppyCommandsAreCountedAndDropped :
    Obligations.UnimplementedFloppyCommandsAreCountedAndDropped := by
  intro i opt b0 ps s command bytes wf when idle empty
  have effectless : fdcOpcode b0 ∉ effectOpcodes := by
    rcases command with rfl | rfl | rfl | rfl | rfl | rfl | rfl | rfl | rfl | rfl | rfl | rfl | rfl
    on_goal 13 => exact not_mem_effectOpcodes_of_unnamed (by simpa [Instr.wf] using wf)
    all_goals
      cases bytes
      rw [fdcByte0_opcode]
      decide
  have length := ((when_iff_of_encode_eq_fdcCmd bytes).mp when).symm
  have dropped := fdcExecute_of_effectless (s := s.setFdc (s.fdc.appended (b0 :: ps)))
    ((Fdc.bankRead_appended_zero empty b0 ps).symm ▸ effectless)
  refine ⟨_, (exec_of_entered bytes rfl idle empty length).trans dropped, ?_,
    fun j => Fdc.appended_get_of_empty empty (b0 :: ps) j.isLt⟩
  rw [State.setFdc_fdc, Fdc.appended_frame]
  rfl

/-! ### RECALIBRATE and SEEK (R390, R392) -/

/-- The controller after a command that moved the drive it addressed, which becomes the current one. -/
def Fdc.moved (f : Fdc) (d : BitVec 2) (x : Drive) : Fdc := { f.setDrive d x with currentDrive := d }.toIdle

theorem Fdc.recalibrate_eq_moved (f : Fdc) (cfg : Config) :
    f.recalibrate cfg = f.moved f.addressed ((f.driveAt f.addressed).arrive cfg 0 0) := rfl

theorem Fdc.seek_eq_moved (f : Fdc) (cfg : Config) :
    f.seek cfg = f.moved f.addressed ((f.driveAt f.addressed).arrive cfg
      ((f.driveAt f.addressed).seekCylinder (bankRead f.buf 2)) (bankRead f.buf 2)) := rfl

/-- R389. -/
theorem driveOf_eq {drive : Byte} {d : BitVec 2} (addresses : d.toNat = drive.toNat % 4) : driveOf drive = d :=
  BitVec.eq_of_toNat_eq ((BitVec.extractLsb'_toNat 0 2 drive).trans addresses.symm)

theorem Fdc.addressed_appended {f : Fdc} (empty : f.wr = 0) (b0 drive : Byte) (ps : List Byte) :
    (f.appended (b0 :: drive :: ps)).addressed = driveOf drive :=
  congrArg driveOf (Fdc.bankRead_appended empty (b0 :: drive :: ps) (by decide))

theorem fdcExecute_of_recalibrate {s : State} (opcode : fdcOpcode (bankRead s.fdc.buf 0) = 0x07) :
    fdcExecute s = if drivePresent s.cfg s.fdc.addressed then done ((s.setFdc (s.fdc.recalibrate s.cfg)).raiseLine 6)
      else .refused .driveAbsent := if_pos opcode

theorem fdcExecute_of_seek {s : State} (opcode : fdcOpcode (bankRead s.fdc.buf 0) = 0x0F) :
    fdcExecute s = if drivePresent s.cfg s.fdc.addressed then done ((s.setFdc (s.fdc.seek s.cfg)).raiseLine 6)
      else .refused .driveAbsent := by
  rw [fdcExecute, opcode]
  rfl

/-- R389, R399 at the state: one drive is moved, which becomes the current one, and line 6 alone is requested. -/
theorem done_moved_eq_next (s : State) (f : Fdc) (d : BitVec 2) (x : Drive) :
    ∃ t, done ((s.setFdc (f.moved d x)).raiseLine 6) = .next t
      ∧ t = { s with fdc := t.fdc, pic := { s.pic with irr := t.pic.irr }, result := .none }
      ∧ t.fdc = { f with wr := 0, rd := 0, currentDrive := d, drive := t.fdc.drive }
      ∧ t.fdc.driveAt d = x
      ∧ (∀ e, e ≠ d → t.fdc.driveAt e = f.driveAt e)
      ∧ ∀ n, n < 8 → t.pic.irr.getLsbD n = (s.pic.irr.getLsbD n || n == 6) :=
  ⟨_, rfl, rfl, rfl, (f.driveAt_setDrive d d x).trans (if_pos rfl),
    fun e other => (f.driveAt_setDrive d e x).trans (if_neg other), fun _ hn => getLsbD_setBit s.pic.irr hn⟩

theorem Fdc.appended_two {f : Fdc} (empty : f.wr = 0) (a b : Byte) :
    f.appended [a, b] = { f with buf := (f.buf.set 0 a).set 1 b, wr := 2 } := by
  simp [appended, append, empty, bankWrite_of_lt]

theorem Fdc.appended_three {f : Fdc} (empty : f.wr = 0) (a b c : Byte) :
    f.appended [a, b, c] = { f with buf := ((f.buf.set 0 a).set 1 b).set 2 c, wr := 3 } := by
  simp [appended, append, empty, bankWrite_of_lt]

/-- R390, R389: RECALIBRATE entered when no command is under way. -/
theorem exec_fdcRecalibrate_of_entered (opt : BitVec 3) {drive : Byte} {s : State} {d : BitVec 2}
    (addresses : d.toNat = drive.toNat % 4) (idle : s.fdc.status = s.cfg.fdcMsrIdle) (empty : s.fdc.wr = 0)
    (length : cbReq s.cfg 0x07 = 2) :
    exec (.fdcRecalibrate opt drive) s =
      if drivePresent s.cfg d then
        done ((s.setFdc ((s.fdc.appended [fdcByte0 opt 0x07, drive]).moved d
          ((s.fdc.driveAt d).arrive s.cfg 0 0))).raiseLine 6)
      else .refused .driveAbsent := by
  rw [exec_of_entered rfl (fdcByte0_opcode opt _) idle empty length,
    fdcExecute_of_recalibrate (Fdc.opcode_appended empty opt 0x07 _),
    State.setFdc_fdc, Fdc.recalibrate_eq_moved, Fdc.addressed_appended empty, driveOf_eq addresses]
  rfl

/-- R392, R389: SEEK entered when no command is under way. -/
theorem exec_fdcSeek_of_entered (opt : BitVec 3) {drive : Byte} (cylinder : Byte) {s : State} {d : BitVec 2}
    (addresses : d.toNat = drive.toNat % 4) (idle : s.fdc.status = s.cfg.fdcMsrIdle) (empty : s.fdc.wr = 0)
    (length : cbReq s.cfg 0x0F = 3) :
    exec (.fdcSeek opt drive cylinder) s =
      if drivePresent s.cfg d then
        done ((s.setFdc ((s.fdc.appended [fdcByte0 opt 0x0F, drive, cylinder]).moved d
          ((s.fdc.driveAt d).arrive s.cfg ((s.fdc.driveAt d).seekCylinder cylinder) cylinder))).raiseLine 6)
      else .refused .driveAbsent := by
  have target : bankRead (s.fdc.appended [fdcByte0 opt 0x0F, drive, cylinder]).buf 2 = cylinder :=
    Fdc.bankRead_appended empty [fdcByte0 opt 0x0F, drive, cylinder] (by decide)
  rw [exec_of_entered rfl (fdcByte0_opcode opt _) idle empty length,
    fdcExecute_of_seek (Fdc.opcode_appended empty opt 0x0F _),
    State.setFdc_fdc, Fdc.seek_eq_moved, target, Fdc.addressed_appended empty, driveOf_eq addresses]
  rfl

/-- Settles O57: the addressed drive is moved to cylinder 0, where it is present. -/
theorem recalibrateReturnsTheDriveToCylinderZero : Obligations.RecalibrateReturnsTheDriveToCylinderZero := by
  intro opt drive s d addresses idle empty length
  rw [exec_fdcRecalibrate_of_entered opt addresses idle empty length]
  refine ⟨fun present => ?_, fun absent => if_neg (Bool.eq_false_iff.mp absent)⟩
  obtain ⟨t, next, state, controller, arrived, others, line⟩ :=
    done_moved_eq_next s (s.fdc.appended [fdcByte0 opt 0x07, drive]) d ((s.fdc.driveAt d).arrive s.cfg 0 0)
  rw [Fdc.appended_two empty] at controller others
  exact ⟨t, (if_pos present).trans next, state, controller, arrived, others, line⟩

/-- R392: the clamped cylinder as an integer. -/
theorem Drive.seekCylinder_eq (d : Drive) (req : Byte) :
    (d.seekCylinder req : Int) =
      max 0 (min (d.cylinderPos + ((req.toNat : Int) - d.seekTarget.toNat)) (d.cylinders - 1)) :=
  Int.toNat_of_nonneg (le_max_left _ _)

/-- R400 (g): a drive on its target ends on the requested cylinder or the last one. -/
theorem Drive.seekCylinder_of_on_target {d : Drive} (onTarget : d.cylinderPos = d.seekTarget.toNat) (req : Byte) :
    d.seekCylinder req = min req.toNat (d.cylinders - 1) := by
  have := d.seekCylinder_eq req
  omega

/-- Settles O59: the addressed drive is moved to the clamped cylinder, where it is present. -/
theorem seekMovesByTheDifferenceOfTargets : Obligations.SeekMovesByTheDifferenceOfTargets := by
  intro opt drive cylinder s d addresses idle empty length
  rw [exec_fdcSeek_of_entered opt cylinder addresses idle empty length]
  refine ⟨fun present => ?_, fun absent => if_neg (Bool.eq_false_iff.mp absent)⟩
  obtain ⟨t, next, state, controller, arrived, others, line⟩ :=
    done_moved_eq_next s (s.fdc.appended [fdcByte0 opt 0x0F, drive, cylinder]) d
      ((s.fdc.driveAt d).arrive s.cfg ((s.fdc.driveAt d).seekCylinder cylinder) cylinder)
  rw [Fdc.appended_three empty] at controller others
  exact ⟨t, _, (if_pos present).trans next, state, controller, arrived, Drive.seekCylinder_eq _ _,
    (Drive.seekCylinder_of_on_target · _), others, line⟩

/-! ### SENSE_INTERRUPT (R391) -/

theorem fdcExecute_of_senseInterrupt {s : State} (opcode : fdcOpcode (bankRead s.fdc.buf 0) = 0x08) :
    fdcExecute s = done (s.setFdc (s.fdc.senseInterrupt s.cfg)) := by
  rw [fdcExecute, opcode]
  rfl

/-- R391: the result takes the place of the opcode byte. -/
theorem Fdc.senseInterrupt_appended {f : Fdc} (empty : f.wr = 0) (b0 : Byte) (cfg : Config) :
    (f.appended [b0]).senseInterrupt cfg = { f with
      buf := (f.buf.set 0 (f.driveAt f.currentDrive).resultCode).set 1
        (BitVec.ofNat 8 (f.driveAt f.currentDrive).cylinderPos)
      wr := 2, rd := 0, status := fdcResultStatus cfg, currentDrive := f.currentDrive + 1 } := by
  simp [appended, append, senseInterrupt, driveAt, empty, bankWrite_of_lt]

/-- R391: SENSE_INTERRUPT entered when no command is under way. -/
theorem exec_fdcSenseInterrupt_of_entered (opt : BitVec 3) {s : State} (idle : s.fdc.status = s.cfg.fdcMsrIdle)
    (empty : s.fdc.wr = 0) (length : cbReq s.cfg 0x08 = 1) :
    exec (.fdcSenseInterrupt opt) s =
      done (s.setFdc ((s.fdc.appended [fdcByte0 opt 0x08]).senseInterrupt s.cfg)) := by
  rw [exec_of_entered rfl (fdcByte0_opcode opt _) idle empty length,
    fdcExecute_of_senseInterrupt (Fdc.opcode_appended empty opt 0x08 _)]
  rfl

/-- R394: two reads take a result of two bytes from a controller that holds one, and leave it idle. -/
theorem exec_fdcRddata_twice {s : State} (unread : s.fdc.status ≠ s.cfg.fdcMsrIdle) (first : s.fdc.rd = 0)
    (two : s.fdc.wr = 2) :
    ∃ u w, exec .fdcRddata s = .next u ∧ u.result = .byte s.fdc.buf[0]
      ∧ exec .fdcRddata u = .next w ∧ w.result = .byte s.fdc.buf[1]
      ∧ w.fdc.status = s.cfg.fdcMsrIdle ∧ w.fdc.wr = 0 ∧ w.fdc.rd = 0 := by
  have inBuffer : s.fdc.rd + 1 < 9 := by omega
  exact ⟨_, _, exec_fdcRddata_of_not_last (by omega) unread (by omega), by simp only [first],
    exec_fdcRddata_of_last inBuffer unread (by simp only [first, two]), by simp only [first], rfl, rfl, rfl⟩

/-- Settles O58: the command puts the two bytes in the buffer, and two reads take them out. -/
theorem senseInterruptReportsTheCurrentDrive : Obligations.SenseInterruptReportsTheCurrentDrive := by
  rintro opt s _ rfl wf idle empty
  obtain ⟨-, -, -, ⟨-, length, -⟩, -⟩ := (Config.wf_iff s.cfg).mp wf
  have sensed := Fdc.senseInterrupt_appended empty (fdcByte0 opt 0x08) s.cfg
  obtain ⟨u, w, read, status, readAgain, cylinder, ended⟩ := exec_fdcRddata_twice
    (s := (s.setFdc ((s.fdc.appended [fdcByte0 opt 0x08]).senseInterrupt s.cfg)).setResult .none)
    (fdcResultStatus_ne_idle wf) rfl rfl
  simp only [State.setResult_fdc, State.setFdc_fdc, sensed] at status cylinder
  refine ⟨_, u, w, exec_fdcSenseInterrupt_of_entered opt idle empty length, ?_, read, ?_, readAgain, ?_, ended⟩
  · rw [sensed]
    rfl
  · simpa using status
  · simpa using cylinder

end Sys2Proof.Machine
end

section
/-! SUPPORT. The decoder reads back what `encode` writes (30_encoding.md R111, R112, R113, R130): which chip claims the
port of an encoding, which operand is found in it, and the operation named in each part of the decoder. -/

namespace Sys2Proof

/-! ### The ports that `encode` assembles from an operand (R114) -/

/-- A chip that every machine has claims its ports (R157). -/
theorem claimant_of_connected (c : Config) {chip : Chip} {p : Word16} (port : connected chip p = true)
    (notCrtc : chip ≠ .crtc) (notEga : chip ≠ .ega) : claimant c p = some chip :=
  claimant_eq_some_iff.mpr ⟨by cases chip <;> simp_all [peripherals], port⟩

theorem claimant_of_hasEga {c : Config} {p : Word16} (ega : c.hasEga = true) (port : connected .ega p = true) :
    claimant c p = some .ega :=
  claimant_eq_some_iff.mpr ⟨(ega_mem_peripherals c).mpr ega, port⟩

theorem connected_dmaPort (ch : BitVec 2) (count : Bool) : connected .dma (dmaPort ch count) = true := by
  revert ch count; decide

theorem dmaPort_ne_status (ch : BitVec 2) (count : Bool) : dmaPort ch count ≠ 0x08 := by
  revert ch count; decide

theorem dmaChannel_dmaPort (ch : BitVec 2) (count : Bool) : dmaChannel (dmaPort ch count) = ch := by
  revert ch count; decide

theorem dmaPort_bit0 (ch : BitVec 2) (count : Bool) : (dmaPort ch count).getLsbD 0 = count := by
  revert ch count; decide

theorem connected_pitPort (k : Fin 3) : connected .pit (pitPort k) = true := by
  revert k; decide

theorem counterOf_pitPort (k : Fin 3) : counterOf ((pitPort k).extractLsb' 0 2) = some k := by
  revert k; decide

theorem connected_emsPort (sub : BitVec 2) : connected .ems (emsPort sub) = true := by
  revert sub; decide

theorem emsSubWindow_emsPort (sub : BitVec 2) : emsSubWindow (emsPort sub) = sub := by
  revert sub; decide

/-! ### Accesses at those ports -/

theorem decodeIn_dmaPort (c : Ctx) (ch : BitVec 2) (count : Bool) :
    decodeIn c (dmaPort ch count) = .instr (if count then .dmaRdCnt ch else .dmaRdAddr ch) := by
  rw [decodeIn, claimant_of_connected c.cfg (connected_dmaPort ch count) nofun nofun]
  simp only [dmaPort_ne_status, dmaPort_bit0, dmaChannel_dmaPort, if_false]
  split <;> rfl

theorem decodeOut_dmaPort (c : Ctx) (ch : BitVec 2) (count : Bool) (v : Byte) :
    decodeOut c (dmaPort ch count) v = .instr (if count then .dmaWrCnt ch v else .dmaWrAddr ch v) := by
  rw [decodeOut, claimant_of_connected c.cfg (connected_dmaPort ch count) nofun nofun]
  simp only [dmaPort_ne_status, dmaPort_bit0, dmaChannel_dmaPort, if_false]
  split <;> rfl

theorem decodeIn_pitPort (c : Ctx) (k : Fin 3) : decodeIn c (pitPort k) = .instr (.pitRd k) := by
  rw [decodeIn, claimant_of_connected c.cfg (connected_pitPort k) nofun nofun]
  simp only [counterOf_pitPort]

theorem decodeOut_pitPort (c : Ctx) (k : Fin 3) (v : Byte) : decodeOut c (pitPort k) v = .instr (.pitWr k v) := by
  rw [decodeOut, claimant_of_connected c.cfg (connected_pitPort k) nofun nofun]
  simp only [counterOf_pitPort]

theorem decodeIn_emsPort (c : Ctx) (sub : BitVec 2) : decodeIn c (emsPort sub) = .instr (.emsRdsel sub) := by
  rw [decodeIn, claimant_of_connected c.cfg (connected_emsPort sub) nofun nofun]
  simp only [emsSubWindow_emsPort]

theorem decodeOut_emsPort (c : Ctx) (sub : BitVec 2) (v : Byte) :
    decodeOut c (emsPort sub) v = .instr (.emsWrsel sub v) := by
  rw [decodeOut, claimant_of_connected c.cfg (connected_emsPort sub) nofun nofun]
  simp only [emsSubWindow_emsPort]

/-- R398: at the ports without a function the decoder tells a read from a write by the operand. -/
theorem decode_accessWord_of_isFdcOther (c : Ctx) {p : Word16} {acc : PortAccess} (h : isFdcOther p acc = true) :
    decode c (.op (accessWord p acc)) = .instr (.fdcOther p acc) := by
  cases acc with
  | read =>
    simp only [isFdcOther, Bool.or_eq_true, beq_iff_eq, or_assoc] at h
    rcases h with rfl | rfl | rfl | rfl <;> rfl
  | write v =>
    simp only [isFdcOther, Bool.or_eq_true, beq_iff_eq, or_assoc] at h
    rcases h with rfl | rfl | rfl | rfl | rfl <;> exact decodeWord_out c _ v

/-! ### Values that tell operations apart (R177, R179, R183, R184, R231) -/

theorem decodePicCommand_icw0 {v : Byte} (wf : (Instr.picIcw0 v).wf = true) : decodePicCommand v = .picIcw0 v :=
  if_pos wf

theorem decodePicCommand_eoi {v : Byte} (wf : (Instr.picEoi v).wf = true) : decodePicCommand v = .picEoi v := by
  simp_all [Instr.wf, decodePicCommand]

theorem decodePicCommand_rdsel {v : Byte} (wf : (Instr.picRdsel v).wf = true) : decodePicCommand v = .picRdsel v := by
  simp_all [Instr.wf, decodePicCommand]

theorem decodePicCommand_ocwNop {v : Byte} (wf : (Instr.picOcwNop v).wf = true) :
    decodePicCommand v = .picOcwNop v := by
  simp_all [Instr.wf, decodePicCommand]

theorem decodePicMask_icwn {k : BitVec 2} (v : Byte) (sequence : k ≠ 0) : decodePicMask k v = .picIcwn v :=
  if_pos sequence

theorem decodePicMask_setmask {k : BitVec 2} {v : Byte} (noSequence : k = 0) (mask : v ≠ 0) :
    decodePicMask k v = .picSetmask v := by
  rw [decodePicMask, if_neg (not_not.mpr noSequence), if_pos mask]

theorem decodePicMask_setmask0 {k : BitVec 2} (noSequence : k = 0) : decodePicMask k 0 = .picSetmask0 := by
  rw [decodePicMask, if_neg (not_not.mpr noSequence)]
  rfl

theorem decodePitControl_prog {v : Byte} (wf : (Instr.pitProg v).wf = true) : decodePitControl v = .pitProg v := by
  simp_all [Instr.wf, decodePitControl]

theorem decodePitControl_latch {v : Byte} (wf : (Instr.pitLatch v).wf = true) : decodePitControl v = .pitLatch v := by
  simp_all [Instr.wf, decodePitControl]

theorem decodePitControl_sel3 {v : Byte} (wf : (Instr.pitSel3 v).wf = true) : decodePitControl v = .pitSel3 v :=
  if_pos (beq_iff_eq.mp wf)

/-! ### Memory (R113) -/

theorem decodeMemRead_egaWindow {c : Config} {off : Word16} (ega : c.hasEga = true)
    (notEms : inEmsWindow c (0xA#4 ++ off) = false) : decodeMemRead c (0xA#4 ++ off) = .instr (.egaMemr off) := by
  rw [decodeMemRead, if_pos ⟨ega, inEgaWindow_append off⟩, if_neg (Bool.eq_false_iff.mp notEms), offset_append]

theorem decodeMemWrite_egaWindow {c : Config} {off : Word16} (v : Byte) (ega : c.hasEga = true)
    (notEms : inEmsWindow c (0xA#4 ++ off) = false) :
    decodeMemWrite c (0xA#4 ++ off) v = .instr (.egaMemw off v) := by
  rw [decodeMemWrite, if_pos ⟨ega, inEgaWindow_append off⟩, if_neg (Bool.eq_false_iff.mp notEms), offset_append]

/-! ### Floppy commands (R130) -/

/-- The opcode and the option bits of a command's first byte give the command back; a byte without a named opcode is
kept whole. -/
theorem fdcCommand_of_encode {i : Instr} {b0 : Byte} {ps : List Byte} (wf : i.wf = true)
    (h : encode i = .fdcCmd (b0 :: ps)) : fdcCommand b0 ps = some i := by
  cases i with
  | fdcReadTrack | fdcSpecify | fdcSenseDriveStatus | fdcWriteData | fdcReadData | fdcRecalibrate | fdcSenseInterrupt
  | fdcWriteDeletedData | fdcReadId | fdcReadDeletedData | fdcFormatTrack | fdcSeek | fdcScanEqual
  | fdcScanLowOrEqual | fdcScanHighOrEqual =>
    cases h
    unfold fdcCommand
    rw [fdcByte0_opcode, fdcByte0_options]
    rfl
  | fdcInvalid =>
    cases h
    have unnamed : namedFdcOpcode (fdcOpcode b0) = false := by simpa [Instr.wf] using wf
    simp only [namedFdcOpcode, Bool.or_eq_false_iff, beq_eq_false_iff_ne] at unnamed
    simp only [fdcCommand, unnamed, if_false]
  | _ => cases h

theorem decodeFdc_of_encode {c : Ctx} {i : Instr} {b0 : Byte} {ps : List Byte} (wf : i.wf = true)
    (when : i.when c = true) (h : encode i = .fdcCmd (b0 :: ps)) : decodeFdc c.cfg (b0 :: ps) = .instr i := by
  rw [decodeFdc, if_pos ((when_iff_of_encode_eq_fdcCmd h).mp when), fdcCommand_of_encode wf h]

/-! ### Every operation -/

/-- R111, R112, R113, R130: the word carries the operands, the port names the chip, and what is left to tell apart is in
the value, the role of the port or the context. -/
theorem decode_encode (c : Ctx) {i : Instr} (wf : i.wf = true) (when : i.when c = true) :
    decode c (encode i) = .instr i := by
  cases i with
  | dmaRdAddr ch => exact (decodeWord_in c _).trans (decodeIn_dmaPort c ch false)
  | dmaRdCnt ch => exact (decodeWord_in c _).trans (decodeIn_dmaPort c ch true)
  | dmaWrAddr ch v => exact (decodeWord_out c _ v).trans (decodeOut_dmaPort c ch false v)
  | dmaWrCnt ch v => exact (decodeWord_out c _ v).trans (decodeOut_dmaPort c ch true v)
  | pitRd k => exact (decodeWord_in c _).trans (decodeIn_pitPort c k)
  | pitWr k v => exact (decodeWord_out c _ v).trans (decodeOut_pitPort c k v)
  | emsRdsel sub => exact (decodeWord_in c _).trans (decodeIn_emsPort c sub)
  | emsWrsel sub v => exact (decodeWord_out c _ v).trans (decodeOut_emsPort c sub v)
  | dmaRdstat | picRdstat | picRdmask | pitRdctl | ppiRda | ppiRdb | ppiRdc | ppiRdctl | fdcRddor | fdcRdmsr | fdcRddata
  | fdcRdccr => rfl
  | dmaWr08 v | ppiWra v | ppiWrb v | ppiWrc v | ppiWrctl v | fdcWrdor v | fdcWrdata v | fdcWrccr v =>
    exact decodeWord_out c _ v
  | picIcw0 v => exact (decodeWord_out c 0x20 v).trans (congrArg _ (decodePicCommand_icw0 wf))
  | picEoi v => exact (decodeWord_out c 0x20 v).trans (congrArg _ (decodePicCommand_eoi wf))
  | picRdsel v => exact (decodeWord_out c 0x20 v).trans (congrArg _ (decodePicCommand_rdsel wf))
  | picOcwNop v => exact (decodeWord_out c 0x20 v).trans (congrArg _ (decodePicCommand_ocwNop wf))
  | picIcwn v => exact (decodeWord_out c 0x21 v).trans (congrArg _ (decodePicMask_icwn v (bne_iff_ne.mp when)))
  | picSetmask v =>
    exact (decodeWord_out c 0x21 v).trans
      (congrArg _ (decodePicMask_setmask (beq_iff_eq.mp when) (bne_iff_ne.mp wf)))
  | picSetmask0 => exact (decodeWord_out c 0x21 0).trans (congrArg _ (decodePicMask_setmask0 (beq_iff_eq.mp when)))
  | pitProg v => exact (decodeWord_out c 0x43 v).trans (congrArg _ (decodePitControl_prog wf))
  | pitLatch v => exact (decodeWord_out c 0x43 v).trans (congrArg _ (decodePitControl_latch wf))
  | pitSel3 v => exact (decodeWord_out c 0x43 v).trans (congrArg _ (decodePitControl_sel3 wf))
  | crtcRddata p | crtcRdidx p | crtcRdstat p | egaRddata p | egaRdstat p =>
    refine (decodeWord_in c p).trans ((decodeIn_of_inCrtcRange c wf).trans ?_)
    simp_all [Instr.when, decodeCrtcIn]
  | crtcWridx p v | crtcWrdata p v | crtcWrstat p v | egaWridx p v | egaWrdata p v =>
    refine (decodeWord_out c p v).trans ((decodeOut_of_inCrtcRange c v wf).trans ?_)
    simp_all [Instr.when, decodeCrtcOut]
  | crtcBadport p acc =>
    have role : roleOf c.cfg p = .unrecognised := beq_iff_eq.mp when
    cases acc with
    | read => exact (decodeWord_in c p).trans ((decodeIn_of_inCrtcRange c wf).trans (by rw [decodeCrtcIn, role]))
    | write v =>
      exact (decodeWord_out c p v).trans ((decodeOut_of_inCrtcRange c v wf).trans (by rw [decodeCrtcOut, role]))
  | egaRdseq | egaRdgfx | egaRd3c2 =>
    rw [encode, decode, decodeWord_in, decodeIn, claimant_of_hasEga when rfl]
    rfl
  | egaRdidx p =>
    refine (decodeWord_in c p).trans ?_
    obtain rfl | rfl : p = 0x3C4 ∨ p = 0x3CE := by simpa [Instr.wf] using wf
    all_goals
      rw [decodeIn, claimant_of_hasEga when rfl]
      rfl
  | egaWrseqidx v | egaWrseq v | egaWrgfxidx v | egaWrgfx v | egaWr3c2 v =>
    refine (decodeWord_out c _ v).trans ?_
    rw [decodeOut, claimant_of_hasEga when rfl]
    rfl
  | fdcOther p acc => exact decode_accessWord_of_isFdcOther c wf
  | emsMemr a => exact (decodeWord_memr c a).trans (if_neg (by simpa [Instr.when, or_iff_not_imp_left] using when))
  | emsMemw a v => exact (decodeWord_memw c a v).trans (if_neg (by simpa [Instr.when, or_iff_not_imp_left] using when))
  | egaMemr off =>
    obtain ⟨ega, notEms⟩ := Bool.and_eq_true_iff.mp when
    exact (decodeWord_memr c _).trans (decodeMemRead_egaWindow ega (by simpa using notEms))
  | egaMemw off v =>
    obtain ⟨ega, notEms⟩ := Bool.and_eq_true_iff.mp when
    exact (decodeWord_memw c _ v).trans (decodeMemWrite_egaWindow v ega (by simpa using notEms))
  | picCallirq arg | picClearirq arg | ppiKeytyped arg | crtcGetreg arg => exact decodeWord_call c _ arg
  | picHasint | picNextint | pitTick | fdcInit | egaReset | evMaskapply | evKbdreset => rfl
  | fdcReadTrack | fdcSpecify | fdcSenseDriveStatus | fdcWriteData | fdcReadData | fdcRecalibrate | fdcSenseInterrupt
  | fdcWriteDeletedData | fdcReadId | fdcReadDeletedData | fdcFormatTrack | fdcSeek | fdcScanEqual
  | fdcScanLowOrEqual | fdcScanHighOrEqual | fdcInvalid => exact decodeFdc_of_encode wf when rfl

/-- Settles O1, by `decode_encode`. -/
theorem decodeReadsWhatEncodeWrites : Obligations.DecodeReadsWhatEncodeWrites := fun c _ => decode_encode c

end Sys2Proof
end

section
/-! SUPPORT. The ExpandedMemory (48_ems.md): the translation of a window address and the side of the store's end it lies
on, what a window access ends in, and the causes of the block's fault (60_exceptions.md), each at its guard. -/

namespace Sys2Proof.Machine

/-! ### The translation (R434, R436) -/

theorem frameSub_eq (off : Nat) : frameSub off = BitVec.ofNat 2 (off / 16384) := by
  rw [frameSub, Nat.shiftRight_eq_div_pow]

theorem Ems.translate_eq (e : Ems) (cfg : Config) (a : Addr) : e.translate cfg a =
    emsPage cfg (e.selector (frameSub (a.toNat - cfg.emsBase))) * 16384 + (a.toNat - cfg.emsBase) % 16384 := rfl

theorem emsPage_of_fault {c : Config} (h : c.emsOob = .fault) (sel : Byte) : emsPage c sel = sel.toNat := by
  rw [emsPage, h]

/-- With P_EMS_OOB = mask the page is one of the 128 of the store. -/
theorem emsPage_of_mask {c : Config} (h : c.emsOob = .mask) (sel : Byte) : emsPage c sel = sel.toNat % 128 := by
  rw [emsPage, h]
  show (sel &&& 0x7F).toNat = _
  rw [BitVec.toNat_and]
  exact Nat.and_two_pow_sub_one_eq_mod _ 7

theorem emsPage_of_lt (c : Config) {sel : Byte} (h : sel.toNat < 128) : emsPage c sel = sel.toNat := by
  cases oob : c.emsOob with
  | fault => exact emsPage_of_fault oob sel
  | mask => rw [emsPage_of_mask oob, Nat.mod_eq_of_lt h]

/-- The translation leaves the store exactly where the page is none of its 128, which only P_EMS_OOB = fault allows. -/
theorem Ems.emsStoreSize_le_translate_iff (e : Ems) (cfg : Config) (a : Addr) : emsStoreSize ≤ e.translate cfg a ↔
    cfg.emsOob = .fault ∧ 128 ≤ (e.selector (frameSub (a.toNat - cfg.emsBase))).toNat := by
  rw [translate_eq, emsStoreSize]
  cases oob : cfg.emsOob with
  | fault =>
    rw [emsPage_of_fault oob, eq_self, true_and]
    omega
  | mask =>
    rw [emsPage_of_mask oob]
    exact iff_of_false (by omega) nofun

/-! ### Window accesses (R435, R436, R437) -/

theorem exec_emsMemr_of_lt {s : State} {a : Addr} (window : inEmsWindow s.cfg a = true)
    (inside : s.ems.translate s.cfg a < emsStoreSize) :
    exec (.emsMemr a) s = .next { s with result := .byte (s.ems.store.read (s.ems.translate s.cfg a)) } :=
  (if_pos window).trans (if_pos inside)

theorem exec_emsMemw_of_lt {s : State} {a : Addr} (v : Byte) (window : inEmsWindow s.cfg a = true)
    (inside : s.ems.translate s.cfg a < emsStoreSize) :
    exec (.emsMemw a v) s = .next { s with
      ems := { s.ems with store := s.ems.store.write (s.ems.translate s.cfg a) v }, result := .none } :=
  (if_pos window).trans (if_pos inside)

theorem exec_emsMemr_of_le {s : State} {a : Addr} (window : inEmsWindow s.cfg a = true)
    (beyond : emsStoreSize ≤ s.ems.translate s.cfg a) : exec (.emsMemr a) s = violation .emsSelector :=
  (if_pos window).trans (if_neg beyond.not_gt)

theorem exec_emsMemw_of_le {s : State} {a : Addr} (v : Byte) (window : inEmsWindow s.cfg a = true)
    (beyond : emsStoreSize ≤ s.ems.translate s.cfg a) : exec (.emsMemw a v) s = violation .emsSelector :=
  (if_pos window).trans (if_neg beyond.not_gt)

theorem Ems.storedOnly_write (e : Ems) (phys : Nat) (v : Byte) :
    e.storedOnly { e with store := e.store.write phys v } phys v :=
  ⟨rfl, Memory.read_write_same phys v, fun _ other => Memory.read_write_other e.store v other⟩

/-- R434, R435, R437: both accesses at the byte that a window address translates to. -/
theorem exec_ems_of_translate {s : State} {a : Addr} {phys : Nat} (v : Byte) (window : inEmsWindow s.cfg a = true)
    (translated : s.ems.translate s.cfg a = phys) (inside : phys < emsStoreSize) :
    exec (.emsMemr a) s = .next { s with result := .byte (s.ems.store.read phys) }
      ∧ ∃ t, exec (.emsMemw a v) s = .next t ∧ t = { s with ems := t.ems, result := .none }
        ∧ s.ems.storedOnly t.ems phys v := by
  subst translated
  exact ⟨exec_emsMemr_of_lt window inside, _, exec_emsMemw_of_lt v window inside, rfl, s.ems.storedOnly_write _ v⟩

/-- R434: every window address that translates to a byte reads what was stored there. -/
theorem exec_emsMemr_of_storedOnly {s t : State} {b : Addr} {phys : Nat} {v : Byte}
    (stored : s.ems.storedOnly t.ems phys v) (wf : s.ems.store.wf = true) (window : inEmsWindow t.cfg b = true)
    (translated : t.ems.translate t.cfg b = phys) (inside : phys < emsStoreSize) :
    exec (.emsMemr b) t = .next { t with result := .byte v } := by
  obtain ⟨-, readBack, -⟩ := stored
  rw [(exec_ems_of_translate v window translated inside).1, readBack wf]

/-- Settles O51: below 128 the page is the selector whatever P_EMS_OOB is, and the byte stored is read back through
every address that translates to it. -/
theorem emsWindowAccessReachesTheTranslatedByte : Obligations.EmsWindowAccessReachesTheTranslatedByte := by
  rintro a v s off _ phys window rfl rfl placed
  rw [← frameSub_eq] at placed ⊢
  have translated := s.ems.translate_eq s.cfg a
  refine ⟨fun oob => ?_, fun below => ?_⟩
  · rw [translated, emsPage_of_fault oob, placed]
  · rw [emsPage_of_lt s.cfg below, ← placed] at translated
    have inside : phys < emsStoreSize := by rw [emsStoreSize]; omega
    obtain ⟨read, t, write, frame, stored⟩ := exec_ems_of_translate v window translated inside
    have cfg : t.cfg = s.cfg := by rw [frame]
    exact ⟨inside, read, t, write, frame, stored, fun wf b windowB translatedB =>
      exec_emsMemr_of_storedOnly stored wf (cfg ▸ windowB) translatedB inside⟩

/-- Settles O52: the page of such a selector is beyond the store, or is the selector less 128. -/
theorem emsSelectorBeyondTheStoreFaultsOrWraps : Obligations.EmsSelectorBeyondTheStoreFaultsOrWraps := by
  rintro a v s off sel phys window rfl selector beyond placed
  rw [← frameSub_eq] at selector
  refine ⟨fun oob => ?_, fun oob => ?_⟩
  · have outside := (s.ems.emsStoreSize_le_translate_iff s.cfg a).mpr ⟨oob, selector ▸ beyond⟩
    exact ⟨exec_emsMemr_of_le window outside, exec_emsMemw_of_le v window outside⟩
  · have byte : sel < 256 := selector ▸ BitVec.isLt _
    have translated := s.ems.translate_eq s.cfg a
    rw [emsPage_of_mask oob, ← selector] at translated
    exact exec_ems_of_translate v window (by omega) (by rw [emsStoreSize]; omega)

/-! ### The causes of the fault (R451) -/

/-- The table of R451: the operation, its guard and the cause of its fault. -/
def FaultCause (i : Instr) (s : State) (f : Fault) : Prop :=
  (∃ p v, i = .crtcWridx p v ∧ 0x12 ≤ v.toNat ∧ f = .hardwareProtocolViolation .crtcIndex)
  ∨ (∃ p v, i = .egaWridx p v ∧ 0x18 < v.toNat ∧ f = .hardwareProtocolViolation .egaIndex)
  ∨ (∃ v, i = .egaWrseqidx v ∧ 5 < v.toNat ∧ f = .hardwareProtocolViolation .sequencerIndex)
  ∨ (∃ v, i = .egaWrgfxidx v ∧ 8 < v.toNat ∧ f = .hardwareProtocolViolation .graphicsIndex)
  ∨ (∃ p acc, i = .crtcBadport p acc ∧ f = .hardwareProtocolViolation .crtcPort)
  ∨ (∃ a, (i = .emsMemr a ∨ ∃ v, i = .emsMemw a v) ∧ inEmsWindow s.cfg a = true ∧ s.cfg.emsOob = .fault
      ∧ 128 ≤ (s.ems.selector (frameSub (a.toNat - s.cfg.emsBase))).toNat
      ∧ f = .hardwareProtocolViolation .emsSelector)

/-- The outcome, if it is a fault, is one that `P` allows. -/
def Res.FaultsOnly (P : Fault → Prop) (r : Res) : Prop := ∀ f, r = .fault f → P f

namespace Res.FaultsOnly

variable {P : Fault → Prop} {s : State}

theorem done : FaultsOnly P (done s) := fun _ => nofun

theorem answer {v : Byte} : FaultsOnly P (answer v s) := fun _ => nofun

theorem answerFlag {b : Bool} : FaultsOnly P (answerFlag b s) := fun _ => nofun

theorem answerDraw : FaultsOnly P (answerDraw s) := fun _ => nofun

theorem refused {e : Refusal} : FaultsOnly P (.refused e) := fun _ => nofun

theorem violation {c : Violation} (h : P (.hardwareProtocolViolation c)) : FaultsOnly P (violation c) :=
  fun _ e => by cases e; exact h

theorem ite {p : Prop} [Decidable p] {a b : Res} (ha : p → FaultsOnly P a) (hb : ¬p → FaultsOnly P b) :
    FaultsOnly P (if p then a else b) := by
  split
  · exact ha ‹_›
  · exact hb ‹_›

theorem fdcDataWrite {v : Byte} : FaultsOnly P (fdcDataWrite v s) := fun _ h => absurd h fdcDataWrite_ne_fault

theorem fdcCommandBytes {bs : List Byte} : FaultsOnly P (fdcCommandBytes bs s) :=
  fun _ h => absurd h fdcCommandBytes_ne_fault

theorem execFdcOther (p : Word16) (acc : PortAccess) : FaultsOnly P (execFdcOther p acc s) := by
  cases acc with
  | read => exact answerDraw
  | write v => exact done

theorem execEgaMemw {off : Word16} {v : Byte} : FaultsOnly P (execEgaMemw off v s) := by
  unfold Machine.execEgaMemw
  cases writeClass s.cfg s.ega.seq with
  | none => exact ite (fun _ => done) fun _ => refused
  | some c => exact ite (fun _ => done) fun _ => done

end Res.FaultsOnly

open Res (FaultsOnly)

/-- A window access faults where the translation leaves the store, and nowhere else (R436). -/
theorem faultCause_of_beyond {i : Instr} {s : State} {a : Addr} (access : i = .emsMemr a ∨ ∃ v, i = .emsMemw a v)
    (window : inEmsWindow s.cfg a = true) (beyond : ¬s.ems.translate s.cfg a < emsStoreSize) :
    FaultCause i s (.hardwareProtocolViolation .emsSelector) := by
  obtain ⟨oob, selector⟩ := (s.ems.emsStoreSize_le_translate_iff s.cfg a).mp (Nat.le_of_not_lt beyond)
  exact .inr (.inr (.inr (.inr (.inr ⟨a, access, window, oob, selector, rfl⟩))))

/-- An operation faults from the table only: the rest end, answer or refuse. -/
theorem exec_faultsOnly (i : Instr) (s : State) : FaultsOnly (FaultCause i s) (exec i s) := by
  cases i with
  | crtcWridx p v => exact .ite (fun h => .violation (.inl ⟨p, v, rfl, h, rfl⟩)) fun _ => .done
  | egaWridx p v => exact .ite (fun h => .violation (.inr (.inl ⟨p, v, rfl, h, rfl⟩))) fun _ => .done
  | egaWrseqidx v => exact .ite (fun h => .violation (.inr (.inr (.inl ⟨v, rfl, h, rfl⟩)))) fun _ => .done
  | egaWrgfxidx v => exact .ite (fun h => .violation (.inr (.inr (.inr (.inl ⟨v, rfl, h, rfl⟩))))) fun _ => .done
  | crtcBadport p acc => exact .violation (.inr (.inr (.inr (.inr (.inl ⟨p, acc, rfl, rfl⟩)))))
  | emsMemr a =>
    exact .ite (fun window => .ite (fun _ => .answer) fun beyond =>
      .violation (faultCause_of_beyond (.inl rfl) window beyond)) fun _ => .answerDraw
  | emsMemw a v =>
    exact .ite (fun window => .ite (fun _ => .done) fun beyond =>
      .violation (faultCause_of_beyond (.inr ⟨v, rfl⟩) window beyond)) fun _ => .done
  | dmaWrAddr | dmaWrCnt | dmaWr08 | picIcw0 | picEoi | picRdsel | picOcwNop | picIcwn | picSetmask | picSetmask0
  | pitWr | pitProg | pitLatch | pitSel3 | pitTick | ppiWra | ppiWrb | ppiWrc | ppiWrctl | ppiKeytyped | emsWrsel
  | crtcWrdata | crtcWrstat | egaWrseq | egaWrgfx | egaWr3c2 | fdcWrdor | fdcWrccr | fdcInit => exact .done
  | dmaRdAddr | dmaRdCnt | dmaRdstat | picRdstat | picRdmask | picNextint | ppiRdb | ppiRdc | ppiRdctl | emsRdsel
  | crtcRddata | crtcRdstat | egaRdstat | egaRdseq | egaRdgfx | egaMemr | fdcRddor | fdcRdmsr | fdcRdccr =>
    exact .answer
  | picHasint => exact .answerFlag
  | pitRdctl | crtcRdidx | egaRd3c2 | egaRdidx => exact .answerDraw
  | picCallirq | picClearirq | egaReset | evMaskapply | evKbdreset => exact .ite (fun _ => .done) fun _ => .refused
  | crtcGetreg => exact .ite (fun _ => .answer) fun _ => .refused
  | pitRd | fdcRddata => exact .ite (fun _ => .answerDraw) fun _ => .answer
  | ppiRda => exact .ite (fun _ => .answer) fun _ => .ite (fun _ => .answer) fun _ => .answer
  | egaWrdata => exact .ite (fun _ => .done) fun _ => .done
  | egaRddata => exact .ite (fun _ => .answer) fun _ => .answer
  | egaMemw => exact .execEgaMemw
  | fdcOther p acc => exact .execFdcOther p acc
  | fdcWrdata => exact .fdcDataWrite
  | fdcReadTrack | fdcSpecify | fdcSenseDriveStatus | fdcWriteData | fdcReadData | fdcRecalibrate | fdcSenseInterrupt
  | fdcWriteDeletedData | fdcReadId | fdcReadDeletedData | fdcFormatTrack | fdcSeek | fdcScanEqual
  | fdcScanLowOrEqual | fdcScanHighOrEqual | fdcInvalid => exact .fdcCommandBytes

/-- Each row of the table is an operation on the faulting side of its guard. -/
theorem exec_of_faultCause {i : Instr} {s : State} {f : Fault} (h : FaultCause i s f) : exec i s = .fault f := by
  obtain ⟨p, v, rfl, guard, rfl⟩ | ⟨p, v, rfl, guard, rfl⟩ | ⟨v, rfl, guard, rfl⟩ | ⟨v, rfl, guard, rfl⟩
    | ⟨p, acc, rfl, rfl⟩ | ⟨a, access, window, oob, selector, rfl⟩ := h
  · exact if_pos guard
  · exact if_pos guard
  · exact if_pos guard
  · exact if_pos guard
  · exact exec_crtcBadport p acc s
  · have beyond := (s.ems.emsStoreSize_le_translate_iff s.cfg a).mpr ⟨oob, selector⟩
    obtain rfl | ⟨v, rfl⟩ := access
    · exact exec_emsMemr_of_le window beyond
    · exact exec_emsMemw_of_le v window beyond

/-- Settles O12: every fault is in the table, by one rule per way an operation ends, and every row of it faults. -/
theorem faultsAreExactlyTheListedCauses : Obligations.FaultsAreExactlyTheListedCauses :=
  fun i s f => ⟨exec_faultsOnly i s f, exec_of_faultCause⟩

end Sys2Proof.Machine
end

section
/-! SUPPORT. The InterruptController's command port (41_pic_8259.md): operation commands and initialization words. -/

namespace Sys2Proof.Machine

/-! ### Operation commands (R179, R181) -/

/-- The three names of an operation command stand for one meaning. -/
theorem exec_operationCommand {i : Instr} {v : Byte} (h : i = .picEoi v ∨ i = .picRdsel v ∨ i = .picOcwNop v)
    (s : State) : exec i s = done (s.setPic (s.pic.command v)) := by
  obtain rfl | rfl | rfl := h <;> rfl

theorem selectsRead_iff (v : Byte) : selectsRead v = true ↔ v &&& 0x8A = 0x0A := beq_iff_eq

/-- Settles O25: the isr and the selection of `Pic.command_eq`, each by the bits that it depends on. -/
theorem operationCommandsSelectTheStatusRegister : Obligations.OperationCommandsSelectTheStatusRegister := by
  intro i v s named _
  rw [exec_operationCommand named s, Pic.command_eq]
  exact ⟨_, rfl, rfl, fun selects => if_pos ((selectsRead_iff v).mpr selects),
    fun selectsNot => if_neg (mt (selectsRead_iff v).mp selectsNot), fun noEoi => if_neg (Bool.eq_false_iff.mp noEoi)⟩

/-! ### Initialization words (R178, R182) -/

theorem exec_picIcwn (v : Byte) (s : State) :
    exec (.picIcwn v) s = .next { s with
      pic := { s.pic with
        icw := bankWrite s.pic.icw s.pic.icwStep.toNat v
        icwStep := if s.pic.icwStep = 1 ∧ s.pic.icw[0].getLsbD 1 = true then 3 else s.pic.icwStep + 1 }
      result := .none } := rfl

/-- The step counts modulo 4 (R182). -/
theorem icwStep_succ_toNat (step : BitVec 2) : (step + 1).toNat = (step.toNat + 1) % 4 := BitVec.toNat_add step 1

/-- Settles O26: the words are a bank of which one is written, and the step is two bits wide. -/
theorem initializationWordsAreStoredInOrder : Obligations.InitializationWordsAreStoredInOrder := by
  intro v s
  refine ⟨fun _ => ⟨_, exec_picIcw0 v s, rfl, fun j => ?_⟩,
    fun _ => ⟨_, exec_picIcwn v s, rfl, fun j => ?_, ?_⟩⟩
  · exact (bankWrite_get s.pic.icw 0 v j.isLt).trans (if_congr (eq_comm.trans Fin.val_eq_zero_iff) rfl rfl)
  · exact (bankWrite_get s.pic.icw _ v j.isLt).trans (if_congr eq_comm rfl rfl)
  · rw [apply_ite BitVec.toNat, icwStep_succ_toNat]
    rfl

end Sys2Proof.Machine
end

section
/-! SUPPORT. The IntervalTimer (43_pit_8253.md): control words, reads of a counter and one tick, by the fields of the
control word. -/

namespace Sys2Proof.Machine

/-! ### Control words (R231, R232, R233) -/

theorem counterOf_eq_some {sel : BitVec 2} {k : Fin 3} (h : sel.toNat = k.val) : counterOf sel = some k := by
  revert sel k; decide

theorem Pit.onSelected_eq {v : Byte} {k : Fin 3} (select : (ctlSelect v).toNat = k.val) (p : Pit)
    (f : Counter → Counter) : p.onSelected v f = p.setCounter k (f (p.counter k)) := by
  rw [onSelected, counterOf_eq_some select]

/-- The operation leaves the timer with one counter replaced: that counter, and the frame. -/
theorem done_setCounter_eq_next (k : Fin 3) (x : Counter) (s : State) :
    ∃ t, done (s.setPit (s.pit.setCounter k x)) = .next t ∧ t = { s with pit := t.pit, result := .none }
      ∧ (∀ j, j ≠ k → t.pit.counter j = s.pit.counter j) ∧ t.pit.counter k = x :=
  ⟨_, rfl, rfl, fun _ other => (Pit.counter_setCounter ..).trans (if_neg other),
    (Pit.counter_setCounter ..).trans (if_pos rfl)⟩

theorem exec_pitProg_of_select {k : Fin 3} {v : Byte} (select : (ctlSelect v).toNat = k.val) (s : State) :
    exec (.pitProg v) s = done (s.setPit (s.pit.setCounter k ((s.pit.counter k).program v))) :=
  congrArg (fun p => done (s.setPit p)) (Pit.onSelected_eq select s.pit _)

theorem exec_pitLatch_of_select {k : Fin 3} {v : Byte} (select : (ctlSelect v).toNat = k.val) (s : State) :
    exec (.pitLatch v) s = done (s.setPit (s.pit.setCounter k (s.pit.counter k).latchCount)) :=
  congrArg (fun p => done (s.setPit p)) (Pit.onSelected_eq select s.pit _)

/-- Settles O30: the counter that the word selects is replaced by what the word makes of it. -/
theorem controlWordProgramsOrLatchesItsCounter : Obligations.ControlWordProgramsOrLatchesItsCounter := by
  intro k v s select
  refine ⟨_, rfl, fun _ => ?_, fun _ => ?_⟩
  · rw [exec_pitProg_of_select select]
    exact done_setCounter_eq_next k _ s
  · rw [exec_pitLatch_of_select select]
    obtain ⟨t, next, frame, others, latched⟩ := done_setCounter_eq_next k (s.pit.counter k).latchCount s
    exact ⟨t, next, frame, others, fun held => latched.trans (if_pos held),
      fun free => latched.trans (if_neg (Bool.eq_false_iff.mp free))⟩

/-! ### Reads of a counter (R236, R245) -/

/-- What a read returns, and what it leaves as the toggle and the latched flag, in each of the formats that read. -/
def Counter.Reads (c : Counter) (b : Byte) (toggle latched : Bool) : Prop :=
  (c.control.extractLsb' 4 2 = 1 ∧ b = c.readSource.extractLsb' 0 8 ∧ toggle = c.readToggle ∧ latched = false)
  ∨ (c.control.extractLsb' 4 2 = 2 ∧ b = c.readSource.extractLsb' 8 8 ∧ toggle = c.readToggle ∧ latched = false)
  ∨ (c.control.extractLsb' 4 2 = 3 ∧ c.readToggle = false
      ∧ b = c.readSource.extractLsb' 0 8 ∧ toggle = true ∧ latched = c.latched)
  ∨ (c.control.extractLsb' 4 2 = 3 ∧ c.readToggle = true
      ∧ b = c.readSource.extractLsb' 8 8 ∧ toggle = false ∧ latched = false)

theorem Counter.read_of_reads {c : Counter} {b : Byte} {toggle latched : Bool} (h : c.Reads b toggle latched) :
    c.format ≠ .unset ∧ c.readByte = b ∧ c.afterRead = { c with readToggle := toggle, latched := latched } := by
  rcases h with ⟨bits, rfl, rfl, rfl⟩ | ⟨bits, rfl, rfl, rfl⟩ | ⟨bits, first, rfl, rfl, rfl⟩
    | ⟨bits, second, rfl, rfl, rfl⟩
  · have format : c.format = .lsb := by simp [Counter.format, bits]
    simp [readByte, afterRead, format, lowByte]
  · have format : c.format = .msb := by simp [Counter.format, bits]
    simp [readByte, afterRead, format, highByte]
  · have format : c.format = .lsbMsb := by simp [Counter.format, bits]
    simp [readByte, afterRead, format, first, lowByte]
  · have format : c.format = .lsbMsb := by simp [Counter.format, bits]
    simp [readByte, afterRead, format, second, highByte]

theorem exec_pitRd_of_unset {k : Fin 3} {s : State} (unset : (s.pit.counter k).control.extractLsb' 4 2 = 0) :
    exec (.pitRd k) s = answerDraw s := if_pos (if_pos unset)

theorem exec_pitRd_of_reads {k : Fin 3} {s : State} {b : Byte} {toggle latched : Bool}
    (h : (s.pit.counter k).Reads b toggle latched) :
    exec (.pitRd k) s = answer b (s.setPit (s.pit.setCounter k
      { s.pit.counter k with readToggle := toggle, latched := latched })) := by
  obtain ⟨programmed, byte, after⟩ := Counter.read_of_reads h
  rw [← byte, ← after]
  exact if_neg programmed

/-- Settles O32: the source is `Counter.readSource`, and the formats are those of `Counter.Reads`. -/
theorem counterReadReturnsLatchOrCountByFormat : Obligations.CounterReadReturnsLatchOrCountByFormat := by
  intro k s
  refine ⟨_, (s.pit.counter k).readSource, rfl, fun held => if_pos held,
    fun free => if_neg (Bool.eq_false_iff.mp free), fun unset => exec_pitRd_of_unset unset, ?_⟩
  intro b toggle latched reads
  exact ⟨_, exec_pitRd_of_reads reads, rfl, fun j other => (Pit.counter_setCounter ..).trans (if_neg other),
    (Pit.counter_setCounter ..).trans (if_pos rfl)⟩

/-! ### One tick by the mode field (R239 to R243) -/

/-- Modes 1, 4 and 5 count nothing (R243). -/
theorem Counter.tick_of_idle_mode {c : Counter} (mode : c.mode = .m1 ∨ c.mode = .m4 ∨ c.mode = .m5) :
    c.tick = (c, false) := by
  rw [tick]
  split
  · rfl
  · rcases mode with h | h | h <;> rw [h]

/-- R28: the modes that the mode field names, 6 being mode 2 and 7 mode 3. -/
theorem Counter.mode_of_bits {c : Counter} {m : BitVec 3} (h : m = c.control.extractLsb' 1 3) :
    (m = 0 → c.mode = .m0) ∧ (m = 1 ∨ m = 4 ∨ m = 5 → c.mode = .m1 ∨ c.mode = .m4 ∨ c.mode = .m5)
      ∧ (m = 2 ∨ m = 6 → c.mode = .m2) ∧ (m = 3 ∨ m = 7 → c.mode = .m3) := by
  unfold mode
  rw [← h]
  clear h
  revert m
  decide

theorem Counter.step3_eq (c : Counter) :
    c.step3 = if c.count.getLsbD 0 = false then 2 else if c.output = true then 1 else 3 := by
  rw [step3]
  cases c.count.getLsbD 0 <;> rfl

/-- Settles O34: every counter ticks for itself, and its mode field names the rule. -/
theorem tickMovesEachCounterByItsMode : Obligations.TickMovesEachCounterByItsMode := by
  intro s k
  obtain ⟨t, next, -, ticked, -⟩ := exec_pitTick_eq_next s
  refine ⟨t, _, next, rfl, fun stopped => ?_, fun enabled m bits => ?_⟩
  · rw [ticked, Counter.tick_of_disabled stopped]
  obtain ⟨mode0, idle, mode2, mode3⟩ := Counter.mode_of_bits bits
  rw [ticked]
  refine ⟨fun h => ?_, fun h => ?_, fun h => ?_, fun h d step => ?_⟩
  · rw [Counter.tick_of_idle_mode (idle h)]
  · rw [Counter.tick_of_m0 enabled (mode0 h)]
    simp only [sub_eq_zero]
  · split
    next low => exact Counter.tick_of_m2_low enabled (mode2 h) low
    next high =>
      rw [Counter.tick_of_m2_high enabled (mode2 h) (Bool.eq_true_of_not_eq_false high)]
      simp only [sub_eq_iff_eq_add]
      rfl
  · rw [← Counter.step3_eq] at step
    rw [Counter.tick_of_m3 enabled (mode3 h), step]
    simp only [sub_eq_zero]

end Sys2Proof.Machine
end

section
/-! SUPPORT. What construction leaves in each chip (R24 to R38), and the accesses without a function (R141). -/

namespace Sys2Proof.Machine

/-! ### Construction (R490) -/

theorem Dma.initial_chan (ch : BitVec 2) : Dma.initial.chan ch = { address := 0, count := 0, toggle := false } :=
  Vector.getElem_replicate ch.isLt

theorem Pit.initial_counter (k : Fin 3) : Pit.initial.counter k =
    { value := 0, count := 0, control := 0, latch := 0, latched := false, enabled := false, output := false,
      readToggle := false, writeToggle := false } :=
  Vector.getElem_replicate k.isLt

/-- A constructed bank of registers holds 0 in each of them. -/
theorem replicate_zero_get {n : Nat} (i : Fin n) : (Vector.replicate n (0 : Byte))[i] = 0 :=
  Vector.getElem_replicate i.isLt

theorem Ega.initial_plane_read (p : BitVec 2) (n : Nat) : (Ega.initial.plane p).read n = 0 := by
  rw [Ega.initial_plane]
  rfl

/-- Settles O10: scalar fields by evaluation, banks, counters, planes and drives by the rule for any one of them. -/
theorem constructionLeavesTheStatedValues : Obligations.ConstructionLeavesTheStatedValues :=
  ⟨rfl, fun cfg => ⟨_, rfl, rfl, rfl, Dma.initial_chan, Pit.initial_counter, rfl, ⟨rfl, rfl, replicate_zero_get⟩, rfl,
    ⟨replicate_zero_get, replicate_zero_get, replicate_zero_get⟩, ⟨rfl, rfl, rfl, rfl, rfl⟩, Ega.initial_plane_read,
    ⟨rfl, replicate_zero_get, rfl, rfl, rfl, rfl, rfl, rfl⟩, Fdc.driveAt_initial cfg, rfl, fun _ => rfl⟩⟩

/-! ### Accesses without a function (R141) -/

/-- Settles O15: a write without a function only ends, a read without one is a draw. -/
theorem accessesWithoutAFunctionChangeNothing : Obligations.AccessesWithoutAFunctionChangeNothing := by
  intro s p v
  refine ⟨fun i write => ?_, fun i read => ?_⟩
  · rcases write with rfl | rfl | rfl | rfl | rfl | rfl <;> exact done_eq s
  · rcases read with rfl | rfl | rfl | rfl | rfl <;> exact answerDraw_eq s

end Sys2Proof.Machine
end
